-- ==== Sys2Proof/Word.lean ====
section
/-! DEFINITION. The bit widths the spec names (`00_scope.md` R7, R9). Every value is unsigned. -/

namespace Sys2Proof

/-- "A byte is 8 bits" (R9): the content of a register, a timer or a memory cell. -/
abbrev Byte := BitVec 8

/-- A 16-bit value: an instruction word, `I`, `pc` or a stack entry (R7). -/
abbrev Word := BitVec 16

/-- A nibble, "a 4-bit unit, half a byte" (R9, R14). -/
abbrev Nibble := BitVec 4

/-- A register index, "addressed by a 4-bit index" (R20, R22). -/
abbrev RegIndex := BitVec 4

/-- A 12-bit address operand NNN (R72). -/
abbrev Addr12 := BitVec 12

/-- Register 15, the flag register (R23). -/
abbrev flagReg : RegIndex := 15#4

end Sys2Proof
end

