-- ==== Sys2Proof/Config.lean ====
section
/-! DEFINITION. The values the spec leaves OPEN (`00_scope.md` R8), as free values: constants with no body, so
that no proof can learn what they are. `STACK_CAPACITY`, which the spec decides, is `Machine.stackCapacity`. -/

namespace Sys2Proof

/-- `INIT_MEM` (R45, R222, decision D12): the byte the host loaded at an address before the first step, for
every address no cell of `State.mem` lists. Free: "a byte the claim does not constrain is any value" (U13).
Log entry 1. -/
opaque Config.initMem : Nat → Byte

/-- `RAND` (R170, decision D17): the byte the host supplies at the n-th draw, n counted by `State.randDraws`.
Free: nothing relates the bytes of different draws. Log entry 4. -/
opaque Config.randByte : Nat → Byte

end Sys2Proof
end

