-- ==== Sys2Proof/Syntax.lean ====
section
/-! DEFINITION. The Operation type of `30_encoding.md` R76: a closed union of exactly 35 variants, each with
the operands it carries, in the order of the rule's table. -/

namespace Sys2Proof

/-- The 35 operations (R76). Operand widths are the fields' (R72), so no index, constant or address can be out
of its range (R99). `ret` is the operation the document names Return. -/
inductive Instr where
  | clearScreen
  | ret
  | nativeCall (nnn : Addr12)
  | goto (nnn : Addr12)
  | subroutine (nnn : Addr12)
  | skipIfRegEqualConst (x : RegIndex) (nn : Byte)
  | skipIfRegNotEqualConst (x : RegIndex) (nn : Byte)
  | skipIfRegEqualReg (x y : RegIndex)
  | setRegConst (x : RegIndex) (nn : Byte)
  | addRegConst (x : RegIndex) (nn : Byte)
  | mov (x y : RegIndex)
  | or (x y : RegIndex)
  | and (x y : RegIndex)
  | xor (x y : RegIndex)
  | add (x y : RegIndex)
  | sub (x y : RegIndex)
  | shiftRight (x : RegIndex)
  | reverseSub (x y : RegIndex)
  | shiftLeft (x : RegIndex)
  | skipIfRegNotEqualReg (x y : RegIndex)
  | setIndex (nnn : Addr12)
  | jumpWithOffsetV0 (nnn : Addr12)
  | randMaskIntoReg (x : RegIndex) (nn : Byte)
  | drawSprite (x y : RegIndex) (n : Nibble)
  | skipIfKeyPressed (x : RegIndex)
  | skipIfKeyNotPressed (x : RegIndex)
  | getDelayTimer (x : RegIndex)
  | awaitKeyIntoReg (x : RegIndex)
  | setDelayTimer (x : RegIndex)
  | setSoundTimer (x : RegIndex)
  | addRegToIndex (x : RegIndex)
  | setIndexToGlyph (x : RegIndex)
  | storeDecimalDigits (x : RegIndex)
  | dumpRegisters (x : RegIndex)
  | loadRegisters (x : RegIndex)
  deriving DecidableEq, Repr

/-- The operation's name in the document (R76), as `spec/opcode_table.json` spells it. -/
def Instr.mnemonic : Instr → String
  | .clearScreen => "ClearScreen"
  | .ret => "Return"
  | .nativeCall _ => "NativeCall"
  | .goto _ => "Goto"
  | .subroutine _ => "Subroutine"
  | .skipIfRegEqualConst _ _ => "SkipIfRegEqualConst"
  | .skipIfRegNotEqualConst _ _ => "SkipIfRegNotEqualConst"
  | .skipIfRegEqualReg _ _ => "SkipIfRegEqualReg"
  | .setRegConst _ _ => "SetRegConst"
  | .addRegConst _ _ => "AddRegConst"
  | .mov _ _ => "Mov"
  | .or _ _ => "Or"
  | .and _ _ => "And"
  | .xor _ _ => "Xor"
  | .add _ _ => "Add"
  | .sub _ _ => "Sub"
  | .shiftRight _ => "ShiftRight"
  | .reverseSub _ _ => "ReverseSub"
  | .shiftLeft _ => "ShiftLeft"
  | .skipIfRegNotEqualReg _ _ => "SkipIfRegNotEqualReg"
  | .setIndex _ => "SetIndex"
  | .jumpWithOffsetV0 _ => "JumpWithOffsetV0"
  | .randMaskIntoReg _ _ => "RandMaskIntoReg"
  | .drawSprite _ _ _ => "DrawSprite"
  | .skipIfKeyPressed _ => "SkipIfKeyPressed"
  | .skipIfKeyNotPressed _ => "SkipIfKeyNotPressed"
  | .getDelayTimer _ => "GetDelayTimer"
  | .awaitKeyIntoReg _ => "AwaitKeyIntoReg"
  | .setDelayTimer _ => "SetDelayTimer"
  | .setSoundTimer _ => "SetSoundTimer"
  | .addRegToIndex _ => "AddRegToIndex"
  | .setIndexToGlyph _ => "SetIndexToGlyph"
  | .storeDecimalDigits _ => "StoreDecimalDigits"
  | .dumpRegisters _ => "DumpRegisters"
  | .loadRegisters _ => "LoadRegisters"

end Sys2Proof
end

