-- ==== Sys2Proof/WellFormed.lean ====
section
/-! DEFINITION. Which operation terms have an encoding (`30_encoding.md` R102). The operand ranges are in the
types of `Instr` (R99); what is left to check is NativeCall's address. -/

namespace Sys2Proof

/-- NativeCall(NNN) is "defined only when the low byte of NNN is neither 0xE0 nor 0xEE" (R102): those words
are ClearScreen and Return (R77). -/
def nativeCallAddrOk (nnn : Addr12) : Bool :=
  nnn.extractLsb' 0 8 != 0xE0#8 && nnn.extractLsb' 0 8 != 0xEE#8

/-- The terms that the decoder can produce. -/
def Instr.wellFormed : Instr → Bool
  | .nativeCall nnn => nativeCallAddrOk nnn
  | .clearScreen | .ret | .goto _ | .subroutine _ | .skipIfRegEqualConst _ _ | .skipIfRegNotEqualConst _ _
  | .skipIfRegEqualReg _ _ | .setRegConst _ _ | .addRegConst _ _ | .mov _ _ | .or _ _ | .and _ _ | .xor _ _
  | .add _ _ | .sub _ _ | .shiftRight _ | .reverseSub _ _ | .shiftLeft _ | .skipIfRegNotEqualReg _ _
  | .setIndex _ | .jumpWithOffsetV0 _ | .randMaskIntoReg _ _ | .drawSprite _ _ _ | .skipIfKeyPressed _
  | .skipIfKeyNotPressed _ | .getDelayTimer _ | .awaitKeyIntoReg _ | .setDelayTimer _ | .setSoundTimer _
  | .addRegToIndex _ | .setIndexToGlyph _ | .storeDecimalDigits _ | .dumpRegisters _ | .loadRegisters _ => true

end Sys2Proof
end

