-- ==== Sys2Proof/Decode.lean ====
section
/-! DEFINITION. The decoder, class by class and as one function (`30_encoding.md` R72, R77 to R93), the encoder
of the canonical words (R102), and the opcode table as rows of mask and match (R100). -/

namespace Sys2Proof

/-! ### Fields (R72) -/

/-- Bits 7 to 4 of a byte: the class of the high byte, Y of the low byte. -/
def hiNibble (b : Byte) : Nibble := b.extractLsb' 4 4

/-- Bits 3 to 0 of a byte: X of the high byte, N of the low byte. -/
def loNibble (b : Byte) : Nibble := b.extractLsb' 0 4

/-- NNN, "concatenating X with the full low byte" (R72, R73). -/
def addrField (x : Nibble) (lo : Byte) : Addr12 := x ++ lo

/-- `w[15:8]`, the byte at the lower address (R70). -/
def hiByte (w : Word) : Byte := w.extractLsb' 8 8

/-- `w[7:0]`, the byte at the next address (R70). -/
def loByte (w : Word) : Byte := w.extractLsb' 0 8

/-- `w = hi * 256 + lo` (R70). -/
def wordOf (hi lo : Byte) : Word := hi ++ lo

/-! ### The decoder (R75, R93) -/

/-- What the decoder answers: "produce an Operation value, or fail with a decoding error" (R75). -/
inductive DecodeResult where
  | op (i : Instr)
  | decodeError (hi lo : Byte)
  deriving DecidableEq, Repr

/-- Class 0 (R77): the low byte alone decides. Log entry 15: X is not examined (D18). -/
def decodeClass0 (x : Nibble) (lo : Byte) : Instr :=
  if lo = 0xE0#8 then .clearScreen
  else if lo = 0xEE#8 then .ret
  else .nativeCall (addrField x lo)

/-- Class 8 (R85): sub-dispatch on N; `none` is a decode error. The shifts carry only X. -/
def decodeClass8 (x y n : Nibble) : Option Instr :=
  if n = 0x0#4 then some (.mov x y)
  else if n = 0x1#4 then some (.or x y)
  else if n = 0x2#4 then some (.and x y)
  else if n = 0x3#4 then some (.xor x y)
  else if n = 0x4#4 then some (.add x y)
  else if n = 0x5#4 then some (.sub x y)
  else if n = 0x6#4 then some (.shiftRight x)
  else if n = 0x7#4 then some (.reverseSub x y)
  else if n = 0xE#4 then some (.shiftLeft x)
  else none

/-- Class E (R91): sub-dispatch on the low byte. -/
def decodeClassE (x : Nibble) (lo : Byte) : Option Instr :=
  if lo = 0x9E#8 then some (.skipIfKeyPressed x)
  else if lo = 0xA1#8 then some (.skipIfKeyNotPressed x)
  else none

/-- Class F (R92): sub-dispatch on the low byte. -/
def decodeClassF (x : Nibble) (lo : Byte) : Option Instr :=
  if lo = 0x07#8 then some (.getDelayTimer x)
  else if lo = 0x0A#8 then some (.awaitKeyIntoReg x)
  else if lo = 0x15#8 then some (.setDelayTimer x)
  else if lo = 0x18#8 then some (.setSoundTimer x)
  else if lo = 0x1E#8 then some (.addRegToIndex x)
  else if lo = 0x29#8 then some (.setIndexToGlyph x)
  else if lo = 0x33#8 then some (.storeDecimalDigits x)
  else if lo = 0x55#8 then some (.dumpRegisters x)
  else if lo = 0x65#8 then some (.loadRegisters x)
  else none

/-- The sixteen classes (R77 to R92); `none` is a decode error. -/
def decodeOp (hi lo : Byte) : Option Instr :=
  let cls := hiNibble hi
  let x := loNibble hi
  let y := hiNibble lo
  let n := loNibble lo
  let nnn := addrField x lo
  if cls = 0x0#4 then some (decodeClass0 x lo)
  else if cls = 0x1#4 then some (.goto nnn)
  else if cls = 0x2#4 then some (.subroutine nnn)
  else if cls = 0x3#4 then some (.skipIfRegEqualConst x lo)
  else if cls = 0x4#4 then some (.skipIfRegNotEqualConst x lo)
  else if cls = 0x5#4 then some (.skipIfRegEqualReg x y)
  else if cls = 0x6#4 then some (.setRegConst x lo)
  else if cls = 0x7#4 then some (.addRegConst x lo)
  else if cls = 0x8#4 then decodeClass8 x y n
  else if cls = 0x9#4 then some (.skipIfRegNotEqualReg x y)
  else if cls = 0xA#4 then some (.setIndex nnn)
  else if cls = 0xB#4 then some (.jumpWithOffsetV0 nnn)
  else if cls = 0xC#4 then some (.randMaskIntoReg x lo)
  else if cls = 0xD#4 then some (.drawSprite x y n)
  else if cls = 0xE#4 then decodeClassE x lo
  else decodeClassF x lo

/-- An operation found, or the decode error with the two bytes (R75, R191). -/
def decodeAnswer (hi lo : Byte) : Option Instr → DecodeResult
  | some i => .op i
  | none => .decodeError hi lo

/-- `Decode : (hi, lo) -> Operation | DecodeError`, total on all byte pairs (R75, R93). -/
def decode (hi lo : Byte) : DecodeResult := decodeAnswer hi lo (decodeOp hi lo)

/-- The decoder on an instruction word (R9, R70). -/
def decodeWord (w : Word) : DecodeResult := decode (hiByte w) (loByte w)

/-- The host's reading of one row of the opcode table: bit 0 is the least significant bit of the 16-bit word,
bits from `nbits` up are 0 (log entry 17). -/
def decodeTableWord (nbits w : Nat) : Option Instr :=
  let word := BitVec.ofNat 16 (w % 2 ^ nbits)
  decodeOp (hiByte word) (loByte word)

/-! ### The encoder: the canonical word of each operation (R102, log entry 24) -/

/-- Format `NNN`: `cNNN` (R74). -/
def formNNN (c : Nibble) (nnn : Addr12) : Word := c ++ nnn

/-- Formats `XNN` and `X` with a sub-opcode byte: `cXNN` (R74). -/
def formXNN (c x : Nibble) (nn : Byte) : Word := (c ++ x : Byte) ++ nn

/-- Formats `XY`, `XYN` and `X` of class 8: `cXYN` (R74). -/
def formXYN (c x y n : Nibble) : Word := (c ++ x : Byte) ++ (y ++ n : Byte)

/-- The canonical word (R102): every unexamined nibble is zero. -/
def encode : Instr → Word
  | .clearScreen => 0x00E0#16
  | .ret => 0x00EE#16
  | .nativeCall nnn => formNNN 0x0#4 nnn
  | .goto nnn => formNNN 0x1#4 nnn
  | .subroutine nnn => formNNN 0x2#4 nnn
  | .skipIfRegEqualConst x nn => formXNN 0x3#4 x nn
  | .skipIfRegNotEqualConst x nn => formXNN 0x4#4 x nn
  | .skipIfRegEqualReg x y => formXYN 0x5#4 x y 0x0#4
  | .setRegConst x nn => formXNN 0x6#4 x nn
  | .addRegConst x nn => formXNN 0x7#4 x nn
  | .mov x y => formXYN 0x8#4 x y 0x0#4
  | .or x y => formXYN 0x8#4 x y 0x1#4
  | .and x y => formXYN 0x8#4 x y 0x2#4
  | .xor x y => formXYN 0x8#4 x y 0x3#4
  | .add x y => formXYN 0x8#4 x y 0x4#4
  | .sub x y => formXYN 0x8#4 x y 0x5#4
  | .shiftRight x => formXYN 0x8#4 x 0x0#4 0x6#4
  | .reverseSub x y => formXYN 0x8#4 x y 0x7#4
  | .shiftLeft x => formXYN 0x8#4 x 0x0#4 0xE#4
  | .skipIfRegNotEqualReg x y => formXYN 0x9#4 x y 0x0#4
  | .setIndex nnn => formNNN 0xA#4 nnn
  | .jumpWithOffsetV0 nnn => formNNN 0xB#4 nnn
  | .randMaskIntoReg x nn => formXNN 0xC#4 x nn
  | .drawSprite x y n => formXYN 0xD#4 x y n
  | .skipIfKeyPressed x => formXNN 0xE#4 x 0x9E#8
  | .skipIfKeyNotPressed x => formXNN 0xE#4 x 0xA1#8
  | .getDelayTimer x => formXNN 0xF#4 x 0x07#8
  | .awaitKeyIntoReg x => formXNN 0xF#4 x 0x0A#8
  | .setDelayTimer x => formXNN 0xF#4 x 0x15#8
  | .setSoundTimer x => formXNN 0xF#4 x 0x18#8
  | .addRegToIndex x => formXNN 0xF#4 x 0x1E#8
  | .setIndexToGlyph x => formXNN 0xF#4 x 0x29#8
  | .storeDecimalDigits x => formXNN 0xF#4 x 0x33#8
  | .dumpRegisters x => formXNN 0xF#4 x 0x55#8
  | .loadRegisters x => formXNN 0xF#4 x 0x65#8

/-- The bits of a word that the decoder examines or carries for an operation: all but the nibble its row of the
opcode table calls ignored (R98). -/
def examinedMask : Instr → Word
  | .clearScreen | .ret => 0xF0FF#16
  | .skipIfRegEqualReg _ _ | .skipIfRegNotEqualReg _ _ => 0xFFF0#16
  | .shiftRight _ | .shiftLeft _ => 0xFF0F#16
  | .nativeCall _ | .goto _ | .subroutine _ | .skipIfRegEqualConst _ _ | .skipIfRegNotEqualConst _ _
  | .setRegConst _ _ | .addRegConst _ _ | .mov _ _ | .or _ _ | .and _ _ | .xor _ _ | .add _ _ | .sub _ _
  | .reverseSub _ _ | .setIndex _ | .jumpWithOffsetV0 _ | .randMaskIntoReg _ _ | .drawSprite _ _ _
  | .skipIfKeyPressed _ | .skipIfKeyNotPressed _ | .getDelayTimer _ | .awaitKeyIntoReg _ | .setDelayTimer _
  | .setSoundTimer _ | .addRegToIndex _ | .setIndexToGlyph _ | .storeDecimalDigits _ | .dumpRegisters _
  | .loadRegisters _ => 0xFFFF#16

/-! ### The opcode table (R100) -/

/-- One row of `spec/opcode_table.json`. -/
structure OpcodeRow where
  mnemonic : String
  mask : Word
  pattern : Word
  deriving DecidableEq, Repr

/-- "A word `w` matches a row when `w & mask = match`" (R100). -/
def OpcodeRow.covers (r : OpcodeRow) (w : Word) : Bool := w &&& r.mask == r.pattern

/-- Classes 0 to 7. ClearScreen and Return stand before NativeCall, as their priority says (R100). -/
def opcodeRows0to7 : List OpcodeRow :=
  [⟨"ClearScreen", 0xF0FF, 0x00E0⟩, ⟨"Return", 0xF0FF, 0x00EE⟩, ⟨"NativeCall", 0xF000, 0x0000⟩,
   ⟨"Goto", 0xF000, 0x1000⟩, ⟨"Subroutine", 0xF000, 0x2000⟩, ⟨"SkipIfRegEqualConst", 0xF000, 0x3000⟩,
   ⟨"SkipIfRegNotEqualConst", 0xF000, 0x4000⟩, ⟨"SkipIfRegEqualReg", 0xF000, 0x5000⟩,
   ⟨"SetRegConst", 0xF000, 0x6000⟩, ⟨"AddRegConst", 0xF000, 0x7000⟩]

/-- Classes 8 to D. -/
def opcodeRows8toD : List OpcodeRow :=
  [⟨"Mov", 0xF00F, 0x8000⟩, ⟨"Or", 0xF00F, 0x8001⟩, ⟨"And", 0xF00F, 0x8002⟩, ⟨"Xor", 0xF00F, 0x8003⟩,
   ⟨"Add", 0xF00F, 0x8004⟩, ⟨"Sub", 0xF00F, 0x8005⟩, ⟨"ShiftRight", 0xF00F, 0x8006⟩,
   ⟨"ReverseSub", 0xF00F, 0x8007⟩, ⟨"ShiftLeft", 0xF00F, 0x800E⟩, ⟨"SkipIfRegNotEqualReg", 0xF000, 0x9000⟩,
   ⟨"SetIndex", 0xF000, 0xA000⟩, ⟨"JumpWithOffsetV0", 0xF000, 0xB000⟩, ⟨"RandMaskIntoReg", 0xF000, 0xC000⟩,
   ⟨"DrawSprite", 0xF000, 0xD000⟩]

/-- Classes E and F. -/
def opcodeRowsEtoF : List OpcodeRow :=
  [⟨"SkipIfKeyPressed", 0xF0FF, 0xE09E⟩, ⟨"SkipIfKeyNotPressed", 0xF0FF, 0xE0A1⟩,
   ⟨"GetDelayTimer", 0xF0FF, 0xF007⟩, ⟨"AwaitKeyIntoReg", 0xF0FF, 0xF00A⟩, ⟨"SetDelayTimer", 0xF0FF, 0xF015⟩,
   ⟨"SetSoundTimer", 0xF0FF, 0xF018⟩, ⟨"AddRegToIndex", 0xF0FF, 0xF01E⟩, ⟨"SetIndexToGlyph", 0xF0FF, 0xF029⟩,
   ⟨"StoreDecimalDigits", 0xF0FF, 0xF033⟩, ⟨"DumpRegisters", 0xF0FF, 0xF055⟩,
   ⟨"LoadRegisters", 0xF0FF, 0xF065⟩]

/-- The 35 rows. -/
def opcodeTable : List OpcodeRow := opcodeRows0to7 ++ (opcodeRows8toD ++ opcodeRowsEtoF)

/-- The mnemonic of the first row a word matches; none is a decode error (R100). -/
def tableMnemonic (w : Word) : Option String := (opcodeTable.find? (·.covers w)).map (·.mnemonic)

/-- The mnemonic of what the decoder answers. -/
def DecodeResult.mnemonic : DecodeResult → Option String
  | .op i => some i.mnemonic
  | .decodeError _ _ => none

end Sys2Proof
end

