-- ==== Sys2Proof/Machine/State.lean ====
section
/-! DEFINITION. The whole architectural state (`10_state.md` R35), the six faults (`60_exceptions.md` R190), the
refusal the host's interface asks for, and the state after reset (`10_state.md` R40 to R45). -/

namespace Sys2Proof.Machine

/-- What a MemoryOutOfBounds fault was doing: the sub-cause of R190 and R194. -/
inductive AccessCause where
  /-- The fetch phase of a step (R111). -/
  | fetch
  /-- DumpRegisters or LoadRegisters (R162, R163). -/
  | data
  deriving DecidableEq, Repr

/-- The six fault kinds with their payloads (R190). A faulting step commits nothing (R197), so a fault carries no
state: the state stays as it was. All six are the spec's own faults; stopping there is safe. -/
inductive Fault where
  /-- 1. Raised by a step whose two fetched bytes are an illegal word (R95, R191). Safe. -/
  | decodeError (hi lo : Byte)
  /-- 2. Raised by Return with an empty stack (R142, R192). Safe. -/
  | stackUnderflow
  /-- 3. Raised by Subroutine with a full stack (R141, R193). Unsafe only for a machine of another capacity (log
  entry 5). -/
  | stackOverflow
  /-- 4. Raised by fetch with `pc > 0xFFE` (R111) and by DumpRegisters and LoadRegisters with `I + X > 0xFFF`
  (R162, R163); `addr` is the lowest address outside the region (R60). Safe. -/
  | memoryOutOfBounds (addr : Nat) (cause : AccessCause)
  /-- 5. Raised by the seven deferred instructions (R180, R195); `op` is the decoded operation. Safe. -/
  | unimplementedOperation (op : Instr)
  /-- 6. Raised by NativeCall (R188, R196). Safe. -/
  | illegalNativeCall (nnn : Addr12)
  deriving DecidableEq, Repr

/-- Why the model has no meaning for an instruction. Nothing in this model raises it: every operation has its
meaning. -/
inductive Refusal where
  /-- The form the host's interface fixes for an arm of `exec` that is not modelled; no arm is. Safe. -/
  | notModelled (mnemonic : String)
  deriving DecidableEq, Repr

/-- The bytes of `M` that some write or load has set, as (address, byte) pairs with strictly rising addresses below
4096. A byte not listed is the host's `INIT_MEM` byte, `Config.initMem` (log entries 1 and 2). -/
abbrev Memory := List Host.Cell

/-- "The whole architectural state is the tuple (`x[0..15]`, `I`, `pc`, `stack`, `DT`, `ST`, `M[0..4095]`)" (R35),
and the model's own draw counter. -/
structure State where
  /-- `x[0]` to `x[15]` (R20); `x[15]` is the flag register (R23). -/
  regs : Vector Byte 16
  /-- `I`, the index register, 16 bits, never clamped (R26). -/
  index : Word
  /-- `pc`, the address of the next instruction's high byte (R28). -/
  pc : Word
  /-- The call stack, the last element its top (R11, R31); `depth` is its length (R32). -/
  stack : List Word
  /-- `DT`, the delay timer counter (R33). -/
  delay : Byte
  /-- `ST`, the sound timer counter (R33). -/
  sound : Byte
  /-- `M` (R34). -/
  mem : Memory
  /-- The model's own: how many random bytes have been drawn. The next draw is `Config.randByte randDraws` (R170, log
  entry 4). -/
  randDraws : Nat
  deriving DecidableEq, Repr

/-- After reset: registers, `I` and timers zero, `pc = 0x0200`, the stack empty (R40 to R44; the spec's decision
D11, log entry 3), memory with no defined content (R45, R221), no random byte drawn (DESIGN CHOICE, log entry 4). -/
def State.reset : State where
  regs := Vector.replicate 16 0x00#8
  index := 0x0000#16
  pc := 0x0200#16
  stack := []
  delay := 0x00#8
  sound := 0x00#8
  mem := []
  randDraws := 0

end Sys2Proof.Machine
end

