-- ==== Sys2Proof/Machine/Ops.lean ====
section
/-! DEFINITION. The named operations over registers, `pc`, stack and memory, the bounds check, the fetch, and the one
operation that raises a fault. Pseudocode names are in `00_scope.md` R11 and R12. -/

namespace Sys2Proof.Machine

/-- How a step, or a meaning, ends (R110): a new state or a fault; never a refusal in this model. -/
abbrev StepResult := Host.Outcome State Fault Refusal

/-! ### Fixed sizes -/

/-- `STACK_CAPACITY` is 16 (R31, the spec's decision D5; log entry 5). -/
def stackCapacity : Nat := 16

/-- Memory is 4096 bytes, addresses 0x000 to 0xFFF (R34, R50). -/
def memorySize : Nat := 4096

/-! ### Faults

A fault is an output of the step, with no trap entry, no saved register and no handler (R200), and there is no return
from it (R202). -/

/-- `raise K(info)`: ends the step with the fault and changes no state (R12, R116, R197; log entry 10). -/
def raise (f : Fault) : StepResult := .fault f

/-- The numeric code of a fault (R190, the spec's decision D14; log entry 11). 0 means no fault. -/
def Fault.code : Fault → Nat
  | .decodeError _ _ => 1
  | .stackUnderflow => 2
  | .stackOverflow => 3
  | .memoryOutOfBounds _ _ => 4
  | .unimplementedOperation _ => 5
  | .illegalNativeCall _ => 6

/-! ### General registers (R20 to R22) -/

/-- `x[i]`. No register is hardwired (R21). -/
def State.reg (s : State) (i : RegIndex) : Byte := s.regs[i.toNat]'(i.isLt)

/-- `x[i] <- v`. -/
def State.setReg (s : State) (i : RegIndex) (v : Byte) : State :=
  { s with regs := s.regs.set i.toNat v i.isLt }

/-- The two writes of a flag-writing instruction: the flag into `x[15]` first, the result into `x[X]` second, so
that with X = 15 the result remains (R121, the spec's decision D6; log entry 6). -/
def State.setFlagAndResult (s : State) (x : RegIndex) (flag result : Byte) : State :=
  (s.setReg flagReg flag).setReg x result

/-! ### The other registers -/

/-- `I <- v` (R26): all 16 bits are kept. -/
def State.setIndexReg (s : State) (v : Word) : State := { s with index := v }

/-- `DT <- v` (R33). -/
def State.setDelay (s : State) (v : Byte) : State := { s with delay := v }

/-- `ST <- v` (R33). -/
def State.setSound (s : State) (v : Byte) : State := { s with sound := v }

/-! ### Program counter (R28 to R30) -/

/-- `npc = (pc + 2) mod 2^16`, "one instruction width" further (R112; log entry 9). -/
def State.npc (s : State) : Word := s.pc + 2#16

/-- `pc <- target`. -/
def State.setPc (s : State) (target : Word) : State := { s with pc := target }

/-- The normal advance of an instruction that does not assign `pc` (R114). -/
def State.advance (s : State) : State := s.setPc s.npc

/-- A conditional skip: `npc + 2` when its condition holds, else `npc` (R115, R144 to R147). -/
def State.skipIf (s : State) (c : Bool) : State :=
  if c then s.setPc (s.npc + 2#16) else s.advance

/-! ### Call stack (R31, R32) -/

/-- `depth`. -/
def State.depth (s : State) : Nat := s.stack.length

/-- `push(v)`: the last element is the top (R11; log entry 19). -/
def State.push (s : State) (v : Word) : State := { s with stack := s.stack ++ [v] }

/-- `pop()`: the top and the state without it, or `none` of an empty stack. -/
def State.pop (s : State) : Option (Word × State) :=
  match s.stack.getLast? with
  | some v => some (v, { s with stack := s.stack.dropLast })
  | none => none

/-! ### Memory (R50 to R61) -/

/-- The byte listed for an address, if one is. -/
def Memory.stored : Memory → Nat → Option Byte
  | [], _ => none
  | (a, b) :: m, k => if a = k then some b else Memory.stored m k

/-- `MemRead(addr, 1)` (R56): the byte last written there, "or the byte of `INIT_MEM` if none was written" (R53), which
is free (log entry 1). -/
def Memory.read (m : Memory) (k : Nat) : Byte := (Memory.stored m k).getD (Config.initMem k)

/-- `MemWrite(addr, 1, v)` (R57), keeping the addresses strictly rising. -/
def Memory.write : Memory → Nat → Byte → Memory
  | [], k, v => [(k, v)]
  | (a, b) :: m, k, v =>
    if k < a then (k, v) :: (a, b) :: m
    else if k = a then (k, v) :: m
    else (a, b) :: Memory.write m k v

/-- The bytes of a block written at rising addresses from `base`. -/
def Memory.writeBlock : Memory → Nat → List Byte → Memory
  | m, _, [] => m
  | m, base, b :: bs => Memory.writeBlock (Memory.write m base b) (base + 1) bs

/-- The listed addresses rise strictly from `lo` on and are all below 4096. -/
def Memory.risesFrom : Nat → Memory → Bool
  | _, [] => true
  | lo, (a, _) :: m => decide (lo ≤ a) && decide (a < memorySize) && Memory.risesFrom (a + 1) m

/-- The canonical form of memory (log entry 2). -/
def Memory.wf (m : Memory) : Bool := Memory.risesFrom 0 m

/-- The bounds check of a range `base` to `base + k`, the sum exact (R60, R61). -/
def inBounds (base k : Nat) : Bool := decide (base + k ≤ 4095)

/-- The fault of a range that fails the check: its lowest address outside the region, `max(base, 4096)` (R60, the
spec's decision D8; log entry 26). -/
def outOfBounds (base : Nat) (cause : AccessCause) : Fault := .memoryOutOfBounds (max base memorySize) cause

/-- The byte of `M` at an address. -/
def State.readMem (s : State) (k : Nat) : Byte := Memory.read s.mem k

/-- The state with a block of bytes written from `base` on. -/
def State.writeBlock (s : State) (base : Nat) (bs : List Byte) : State :=
  { s with mem := Memory.writeBlock s.mem base bs }

/-! ### Fetch (R55, R58, R111; log entry 8) -/

/-- The two bytes at `pc`, the high byte at the lower address, or the fetch fault when `pc > 0xFFE`. -/
def State.fetch (s : State) : Except Fault (Byte × Byte) :=
  if inBounds s.pc.toNat 1 then .ok (s.readMem s.pc.toNat, s.readMem (s.pc.toNat + 1))
  else .error (outOfBounds s.pc.toNat .fetch)

/-- The word the host asks for, placed where the next fetch reads it: at `pc` if a fetch can succeed there, else at
0x0200 with `pc` set there (log entry 17). -/
def State.placeWord (s : State) (w : Word) : State :=
  let at0 := if inBounds s.pc.toNat 1 then s.pc else 0x0200#16
  (s.setPc at0).writeBlock at0.toNat [hiByte w, loByte w]

end Sys2Proof.Machine
end

