-- ==== Sys2Proof/Machine/Flags.lean ====
section
/-! DEFINITION. The results and the flag bytes of the ALU (`41_alu_register.md` R120 to R130). A flag is the whole
byte 0x00 or 0x01 (R24). -/

namespace Sys2Proof.Machine

/-- A flag as the byte stored in `x[15]` (R24). -/
def flagByte (c : Bool) : Byte := if c then 0x01#8 else 0x00#8

/-- `s mod 256` of `s = a + b` (R120, R122). -/
def addResult (a b : Byte) : Byte := a + b

/-- The carry of Add: 1 "if the unsigned sum exceeds 255, else 0" (R122). -/
def addFlag (a b : Byte) : Byte := flagByte (decide (255 < a.toNat + b.toNat))

/-- `(a - b) mod 256` (R120, R123, R124). -/
def subResult (a b : Byte) : Byte := a - b

/-- "1 if no borrow occurred", that is `a >= b`, else 0 (R123, R124). -/
def noBorrowFlag (a b : Byte) : Byte := flagByte (decide (b.toNat ≤ a.toNat))

/-- `a >> 1`, bit 7 of the result 0 (R129; a logical shift, C1 of `90_conflicts.md`; log entry 20). -/
def shiftRightResult (a : Byte) : Byte := a >>> 1

/-- `a[0]`, the bit ShiftRight shifts out, of the value before the shift (R129, R227). -/
def shiftRightFlag (a : Byte) : Byte := flagByte (a.getLsbD 0)

/-- `(a * 2) mod 256` (R130). -/
def shiftLeftResult (a : Byte) : Byte := a <<< 1

/-- `a[7]`, the bit ShiftLeft shifts out, of the value before the shift (R130, R227). -/
def shiftLeftFlag (a : Byte) : Byte := flagByte (a.getLsbD 7)

end Sys2Proof.Machine
end

