-- ==== Sys2Proof/Machine/Operands.lean ====
section
/-! DEFINITION. The operand forms: registers, constants and addresses (`30_encoding.md` R73) and the one data
addressing mode, index plus register number (`43_index_memory.md` R164). -/

namespace Sys2Proof.Machine

/-- `zext_16(NNN)`: an address operand widened to the 16 bits of `pc` and `I` (R73). -/
def addrOperand (nnn : Addr12) : Word := nnn.setWidth 16

/-- `zext_16(x[i])`: a register "widened to 16 bits" (R73, R143, R161). -/
def State.regWide (s : State) (i : RegIndex) : Word := (s.reg i).setWidth 16

/-- The target of JumpWithOffsetV0: `(zext_16(NNN) + zext_16(x[0])) mod 2^16`; always register 0 (R143). -/
def State.offsetTarget (s : State) (nnn : Addr12) : Word := addrOperand nnn + s.regWide 0#4

/-- The first address of a block transfer: `I` as an exact integer (R51, R164). -/
def State.blockBase (s : State) : Nat := s.index.toNat

/-- Whether the bytes `I` to `I + X` all lie in memory (R60, R162, R163). -/
def State.blockInBounds (s : State) (x : RegIndex) : Bool := inBounds s.blockBase x.toNat

/-- `x[0]` to `x[X]` in order, the bytes DumpRegisters stores (R162). -/
def State.blockRegs (s : State) (x : RegIndex) : List Byte := s.regs.toList.take (x.toNat + 1)

/-- The register file after `x[i] <- MemRead(I + i, 1)` for `i` in 0 to X (R163). -/
def State.loadBlock (s : State) (x : RegIndex) : State :=
  { s with regs := s.regs.mapIdx fun i v => if i ≤ x.toNat then s.readMem (s.blockBase + i) else v }

end Sys2Proof.Machine
end

