-- ==== Sys2Proof/Machine/Alu.lean ====
section
/-! DEFINITION. The eleven ALU and register instructions (`41_alu_register.md`). All operands are read from the state
before the step (R113); `pc` becomes `npc` (R114); none can fault (R199). -/

namespace Sys2Proof.Machine

/-- An instruction that writes `x[X]` alone and advances. -/
def writeReg (x : RegIndex) (v : Byte) (s : State) : StepResult := .next (s.setReg x v).advance

/-- An instruction that writes the flag and then the result (R121) and advances. -/
def writeFlagged (x : RegIndex) (flag result : Byte) (s : State) : StepResult :=
  .next (s.setFlagAndResult x flag result).advance

/-- Add(X, Y) (R122). -/
def execAdd (x y : RegIndex) (s : State) : StepResult :=
  writeFlagged x (addFlag (s.reg x) (s.reg y)) (addResult (s.reg x) (s.reg y)) s

/-- Sub(X, Y): `x[X] - x[Y]` (R123). -/
def execSub (x y : RegIndex) (s : State) : StepResult :=
  writeFlagged x (noBorrowFlag (s.reg x) (s.reg y)) (subResult (s.reg x) (s.reg y)) s

/-- ReverseSub(X, Y): `x[Y] - x[X]` (R124). -/
def execReverseSub (x y : RegIndex) (s : State) : StepResult :=
  writeFlagged x (noBorrowFlag (s.reg y) (s.reg x)) (subResult (s.reg y) (s.reg x)) s

/-- Mov(X, Y) (R125; the direction is general knowledge, G2; log entry 16). -/
def execMov (x y : RegIndex) (s : State) : StepResult := writeReg x (s.reg y) s

/-- Or(X, Y) (R126; destination X is general knowledge, G3; log entry 16). -/
def execOr (x y : RegIndex) (s : State) : StepResult := writeReg x (s.reg x ||| s.reg y) s

/-- And(X, Y) (R127; log entry 16). -/
def execAnd (x y : RegIndex) (s : State) : StepResult := writeReg x (s.reg x &&& s.reg y) s

/-- Xor(X, Y) (R128; log entry 16). -/
def execXor (x y : RegIndex) (s : State) : StepResult := writeReg x (s.reg x ^^^ s.reg y) s

/-- ShiftRight(X) (R129). -/
def execShiftRight (x : RegIndex) (s : State) : StepResult :=
  writeFlagged x (shiftRightFlag (s.reg x)) (shiftRightResult (s.reg x)) s

/-- ShiftLeft(X) (R130). -/
def execShiftLeft (x : RegIndex) (s : State) : StepResult :=
  writeFlagged x (shiftLeftFlag (s.reg x)) (shiftLeftResult (s.reg x)) s

/-- SetRegConst(X, NN) (R131; read from its name, N6; log entry 27). -/
def execSetRegConst (x : RegIndex) (nn : Byte) (s : State) : StepResult := writeReg x nn s

/-- AddRegConst(X, NN): wraps modulo 256, no flag (R132). -/
def execAddRegConst (x : RegIndex) (nn : Byte) (s : State) : StepResult :=
  writeReg x (addResult (s.reg x) nn) s

end Sys2Proof.Machine
end

