-- ==== Sys2Proof/Machine/Control.lean ====
section
/-! DEFINITION. The eight control-flow instructions (`42_control_flow.md`). The "current program counter" is `npc`
(R115, the spec's decision D2; log entry 9). -/

namespace Sys2Proof.Machine

/-- Goto(NNN) (R140). -/
def execGoto (nnn : Addr12) (s : State) : StepResult := .next (s.setPc (addrOperand nnn))

/-- Subroutine(NNN): pushes `npc`, or faults with a full stack (R141, R193). -/
def execSubroutine (nnn : Addr12) (s : State) : StepResult :=
  if s.depth < stackCapacity then .next ((s.push s.npc).setPc (addrOperand nnn))
  else raise .stackOverflow

/-- Return: `pc <- pop()`, or faults with an empty stack (R142, R192). -/
def execRet (s : State) : StepResult :=
  match s.pop with
  | some (target, popped) => .next (popped.setPc target)
  | none => raise .stackUnderflow

/-- JumpWithOffsetV0(NNN) (R143). -/
def execJumpWithOffsetV0 (nnn : Addr12) (s : State) : StepResult := .next (s.setPc (s.offsetTarget nnn))

/-- SkipIfRegEqualConst(X, NN) (R144; the conditions are read from the names, N6; log entry 27). -/
def execSkipIfRegEqualConst (x : RegIndex) (nn : Byte) (s : State) : StepResult :=
  .next (s.skipIf (s.reg x == nn))

/-- SkipIfRegNotEqualConst(X, NN) (R145). -/
def execSkipIfRegNotEqualConst (x : RegIndex) (nn : Byte) (s : State) : StepResult :=
  .next (s.skipIf (s.reg x != nn))

/-- SkipIfRegEqualReg(X, Y) (R146). -/
def execSkipIfRegEqualReg (x y : RegIndex) (s : State) : StepResult :=
  .next (s.skipIf (s.reg x == s.reg y))

/-- SkipIfRegNotEqualReg(X, Y) (R147). -/
def execSkipIfRegNotEqualReg (x y : RegIndex) (s : State) : StepResult :=
  .next (s.skipIf (s.reg x != s.reg y))

end Sys2Proof.Machine
end

