-- ==== Sys2Proof/Machine/Deferred.lean ====
section
/-! DEFINITION. The seven deferred instructions and NativeCall (`45_deferred_nativecall.md`). Each of the seven, "on
every execution and for every operand value, raises `UnimplementedOperation(op)`" (R180), and the block has no
collaborator wired (the spec's decision D15; log entry 12). What they would do with one is given nowhere and "a model
must not supply one" (R180). -/

namespace Sys2Proof.Machine

/-- The fault of a deferred instruction, which shows the operand data and changes nothing (R180, R189, R195). -/
def deferred (op : Instr) : StepResult := raise (.unimplementedOperation op)

/-- ClearScreen (R181). -/
def execClearScreen (_s : State) : StepResult := deferred .clearScreen

/-- DrawSprite(X, Y, N) (R182): no flag written, no memory access, whatever `I` holds. -/
def execDrawSprite (x y : RegIndex) (n : Nibble) (_s : State) : StepResult := deferred (.drawSprite x y n)

/-- SkipIfKeyPressed(X) (R183). -/
def execSkipIfKeyPressed (x : RegIndex) (_s : State) : StepResult := deferred (.skipIfKeyPressed x)

/-- SkipIfKeyNotPressed(X) (R184). -/
def execSkipIfKeyNotPressed (x : RegIndex) (_s : State) : StepResult := deferred (.skipIfKeyNotPressed x)

/-- AwaitKeyIntoReg(X) (R185): it does not wait. -/
def execAwaitKeyIntoReg (x : RegIndex) (_s : State) : StepResult := deferred (.awaitKeyIntoReg x)

/-- StoreDecimalDigits(X) (R186): no memory access. -/
def execStoreDecimalDigits (x : RegIndex) (_s : State) : StepResult := deferred (.storeDecimalDigits x)

/-- SetIndexToGlyph(X) (R187): `I` is not changed. -/
def execSetIndexToGlyph (x : RegIndex) (_s : State) : StepResult := deferred (.setIndexToGlyph x)

/-- NativeCall(NNN): "always a hard fault" (R188, R196). -/
def execNativeCall (nnn : Addr12) (_s : State) : StepResult := raise (.illegalNativeCall nnn)

end Sys2Proof.Machine
end

