-- ==== Sys2Proof/Machine/IndexMemory.lean ====
section
/-! DEFINITION. The index register and the register block transfers (`43_index_memory.md`). -/

namespace Sys2Proof.Machine

/-- SetIndex(NNN) (R160). -/
def execSetIndex (nnn : Addr12) (s : State) : StepResult := .next (s.setIndexReg (addrOperand nnn)).advance

/-- AddRegToIndex(X): the sum in 16 bits, no flag, no fault (R161, the spec's decision D7; log entry 7). -/
def execAddRegToIndex (x : RegIndex) (s : State) : StepResult :=
  .next (s.setIndexReg (s.index + s.regWide x)).advance

/-- DumpRegisters(X): the whole range is checked before the first write (R60, R162). -/
def execDumpRegisters (x : RegIndex) (s : State) : StepResult :=
  if s.blockInBounds x then .next (s.writeBlock s.blockBase (s.blockRegs x)).advance
  else raise (outOfBounds s.blockBase .data)

/-- LoadRegisters(X): the whole range is checked before the first read (R60, R163). -/
def execLoadRegisters (x : RegIndex) (s : State) : StepResult :=
  if s.blockInBounds x then .next (s.loadBlock x).advance
  else raise (outOfBounds s.blockBase .data)

end Sys2Proof.Machine
end

