-- ==== Sys2Proof/Machine/RandomTimers.lean ====
section
/-! DEFINITION. The random byte and the timer registers (`44_random_timers.md`). None can fault (R199). -/

namespace Sys2Proof.Machine

/-- `rand()`: the byte the host supplies to this step, free (R170; log entry 4). -/
def State.randByte (s : State) : Byte := Config.randByte s.randDraws

/-- One random byte is consumed (R170). -/
def State.consumeRand (s : State) : State := { s with randDraws := s.randDraws + 1 }

/-- RandMaskIntoReg for a given random byte `r`: `x[X] <- r & NN` (R170). -/
def randMaskWith (r : Byte) (x : RegIndex) (nn : Byte) (s : State) : StepResult :=
  .next (s.consumeRand.setReg x (r &&& nn)).advance

/-- RandMaskIntoReg(X, NN) (R170). -/
def execRandMaskIntoReg (x : RegIndex) (nn : Byte) (s : State) : StepResult :=
  randMaskWith s.randByte x nn s

/-- GetDelayTimer(X): `x[X] <- DT` (R171, the spec's decision D16; log entry 13). -/
def execGetDelayTimer (x : RegIndex) (s : State) : StepResult := .next (s.setReg x s.delay).advance

/-- SetDelayTimer(X): `DT <- x[X]` (R172; log entry 13). -/
def execSetDelayTimer (x : RegIndex) (s : State) : StepResult := .next (s.setDelay (s.reg x)).advance

/-- SetSoundTimer(X): `ST <- x[X]` (R173; log entry 13). -/
def execSetSoundTimer (x : RegIndex) (s : State) : StepResult := .next (s.setSound (s.reg x)).advance

end Sys2Proof.Machine
end

