-- ==== Sys2Proof/Machine/Dispatch.lean ====
section
/-! DEFINITION. `Exec` of `40_instruction_cycle.md` R118: one arm per operation. -/

namespace Sys2Proof.Machine

def exec (i : Instr) (s : State) : Host.Outcome State Fault Refusal :=
  match i with
  | .clearScreen => Sys2Proof.Machine.execClearScreen s
  | .ret => Sys2Proof.Machine.execRet s
  | .nativeCall nnn => Sys2Proof.Machine.execNativeCall nnn s
  | .goto nnn => Sys2Proof.Machine.execGoto nnn s
  | .subroutine nnn => Sys2Proof.Machine.execSubroutine nnn s
  | .skipIfRegEqualConst x nn => Sys2Proof.Machine.execSkipIfRegEqualConst x nn s
  | .skipIfRegNotEqualConst x nn => Sys2Proof.Machine.execSkipIfRegNotEqualConst x nn s
  | .skipIfRegEqualReg x y => Sys2Proof.Machine.execSkipIfRegEqualReg x y s
  | .setRegConst x nn => Sys2Proof.Machine.execSetRegConst x nn s
  | .addRegConst x nn => Sys2Proof.Machine.execAddRegConst x nn s
  | .mov x y => Sys2Proof.Machine.execMov x y s
  | .or x y => Sys2Proof.Machine.execOr x y s
  | .and x y => Sys2Proof.Machine.execAnd x y s
  | .xor x y => Sys2Proof.Machine.execXor x y s
  | .add x y => Sys2Proof.Machine.execAdd x y s
  | .sub x y => Sys2Proof.Machine.execSub x y s
  | .shiftRight x => Sys2Proof.Machine.execShiftRight x s
  | .reverseSub x y => Sys2Proof.Machine.execReverseSub x y s
  | .shiftLeft x => Sys2Proof.Machine.execShiftLeft x s
  | .skipIfRegNotEqualReg x y => Sys2Proof.Machine.execSkipIfRegNotEqualReg x y s
  | .setIndex nnn => Sys2Proof.Machine.execSetIndex nnn s
  | .jumpWithOffsetV0 nnn => Sys2Proof.Machine.execJumpWithOffsetV0 nnn s
  | .randMaskIntoReg x nn => Sys2Proof.Machine.execRandMaskIntoReg x nn s
  | .drawSprite x y n => Sys2Proof.Machine.execDrawSprite x y n s
  | .skipIfKeyPressed x => Sys2Proof.Machine.execSkipIfKeyPressed x s
  | .skipIfKeyNotPressed x => Sys2Proof.Machine.execSkipIfKeyNotPressed x s
  | .getDelayTimer x => Sys2Proof.Machine.execGetDelayTimer x s
  | .awaitKeyIntoReg x => Sys2Proof.Machine.execAwaitKeyIntoReg x s
  | .setDelayTimer x => Sys2Proof.Machine.execSetDelayTimer x s
  | .setSoundTimer x => Sys2Proof.Machine.execSetSoundTimer x s
  | .addRegToIndex x => Sys2Proof.Machine.execAddRegToIndex x s
  | .setIndexToGlyph x => Sys2Proof.Machine.execSetIndexToGlyph x s
  | .storeDecimalDigits x => Sys2Proof.Machine.execStoreDecimalDigits x s
  | .dumpRegisters x => Sys2Proof.Machine.execDumpRegisters x s
  | .loadRegisters x => Sys2Proof.Machine.execLoadRegisters x s

end Sys2Proof.Machine
end

