-- ==== Sys2Proof/Machine/Step.lean ====
section
/-! DEFINITION. One instruction cycle (`40_instruction_cycle.md` R110, R118): fetch, decode, execute, commit. -/

namespace Sys2Proof.Machine

/-- `Step` (R118). The phases are tried in order and the first fault decides (R198). The random byte of the step is
`State.randByte` (R117). The host writes no state inside a step (R65, R117; log entry 13). -/
def step (s : State) : Host.Outcome State Fault Refusal :=
  match s.fetch with
  | .error f => raise f
  | .ok (hi, lo) =>
    match decode hi lo with
    | .decodeError hi lo => raise (.decodeError hi lo)
    | .op i => exec i s

/-- The state in which the next step fetches and runs the word whose bits are `w`, bits from `nbits` up being 0 (log
entry 17). -/
def State.withFetchWord (s : State) (nbits w : Nat) : State :=
  s.placeWord (BitVec.ofNat 16 (w % 2 ^ nbits))

end Sys2Proof.Machine
end

