-- ==== Sys2Proof/Machine/HostPort.lean ====
section
/-! DEFINITION. The host interface (`60_exceptions.md` R200, R210): what the one outside agent can do to the machine,
each action between two steps (R65). The random byte is `Config.randByte`. Log entries 13 and 14. -/

namespace Sys2Proof.Machine

/-! ### Reset and load (R220 to R224) -/

/-- A block of bytes as memory cells from an address on. -/
def cellsFrom : Nat → List Byte → Memory
  | _, [] => []
  | a, b :: bs => (a, b) :: cellsFrom (a + 1) bs

/-- Reset, taken between steps (R220): every register at its reset value, memory with no defined content (R221). The
random source is the host's, so its draws go on (R37; log entry 14). -/
def State.resetNow (s : State) : State := { State.reset with randDraws := s.randDraws }

/-- The host writes all 4096 bytes of `M` (R222). -/
def State.loadImage (s : State) (image : Vector Byte 4096) : State := { s with mem := cellsFrom 0 image.toList }

/-- The launch state: the reset values with `M = INIT_MEM` (R224). -/
def State.launch (image : Vector Byte 4096) : State := State.reset.loadImage image

/-! ### The host's stack accessors (R32, R210) -/

/-- "push(address) fails with StackOverflow past capacity" (R210). -/
def hostPush (v : Word) (s : State) : StepResult :=
  if s.depth < stackCapacity then .next (s.push v) else raise .stackOverflow

/-- "pop() → address, fails with StackUnderflow when empty" (R210): the address popped and the state left. -/
def hostPop (s : State) : Except Fault (Word × State) :=
  match s.pop with
  | some r => .ok r
  | none => .error .stackUnderflow

/-! ### Actions -/

/-- The interactions of R210 that change the machine. Every get is a read of the state (R210, state read-out). -/
inductive HostAction where
  /-- Runs one instruction cycle (R118). -/
  | step
  /-- Sets the reset values (R220). -/
  | reset
  /-- Writes the 4096 bytes of `INIT_MEM` (R222). -/
  | load (image : Vector Byte 4096)
  /-- Sets `DT` (R206): `HOST_TIMER_POLICY` is any sequence of these. -/
  | setDelay (v : Byte)
  /-- Sets `ST` (R206). -/
  | setSound (v : Byte)
  /-- Register set (R210). -/
  | setReg (i : RegIndex) (v : Byte)
  /-- Stack push (R210). -/
  | push (v : Word)
  /-- Stack pop (R210). -/
  | pop
  deriving DecidableEq, Repr

/-- One host action. -/
def act (a : HostAction) (s : State) : StepResult :=
  match a with
  | .step => step s
  | .reset => .next s.resetNow
  | .load image => .next (s.loadImage image)
  | .setDelay v => .next (s.setDelay v)
  | .setSound v => .next (s.setSound v)
  | .setReg i v => .next (s.setReg i v)
  | .push v => hostPush v s
  | .pop =>
    match hostPop s with
    | .ok (_, t) => .next t
    | .error f => raise f

/-- The actions a run may hold after launch: steps, and timer writes under any `HOST_TIMER_POLICY`. A host that sets
registers, the stack or memory during a run is outside every claim of the spec (R65, R210, decision D26). -/
def HostAction.inRun : HostAction → Bool
  | .step | .setDelay _ | .setSound _ => true
  | .reset | .load _ | .setReg _ _ | .push _ | .pop => false

/-- A run under the host: the actions in turn, ending at the first fault (R201, decision D4). -/
def runActions : List HostAction → State → StepResult
  | [], s => .next s
  | a :: as, s =>
    match act a s with
    | .next t => runActions as t
    | .fault f => .fault f
    | .refused r => .refused r

/-! ### The fault report (R200) -/

/-- What the block presents at the end of a step: the fault, if one was raised, "together with the unchanged state"
(R200). -/
structure StepReport where
  state : State
  fault : Option Fault
  deriving DecidableEq, Repr

/-- The report of one step: a faulting step leaves the state as it was (R197). -/
def report (s : State) : StepReport :=
  match step s with
  | .next t => ⟨t, none⟩
  | .fault f => ⟨s, some f⟩
  | .refused _ => ⟨s, none⟩

/-- The code on the fault output: 0 means no fault (R190). -/
def StepReport.code (r : StepReport) : Nat :=
  match r.fault with
  | none => 0
  | some f => f.code

end Sys2Proof.Machine
end

