-- ==== Sys2Proof/Safety.lean ====
section
/-! DEFINITION. The terms claims are stated in: the invariants of the machine, the illegal words, the cause of each
fault, a safe place to step, the end of a run, and which piece of state each operation may write. -/

namespace Sys2Proof

/-! ### What the spec says of each operation -/

/-- The seven deferred instructions (R180). -/
def Instr.isDeferred : Instr → Bool
  | .clearScreen | .drawSprite _ _ _ | .skipIfKeyPressed _ | .skipIfKeyNotPressed _ | .awaitKeyIntoReg _
  | .storeDecimalDigits _ | .setIndexToGlyph _ => true
  | _ => false

/-- The operations that can fault once decoded: the twelve that R199 leaves out. -/
def Instr.mayFault : Instr → Bool
  | .subroutine _ | .ret | .dumpRegisters _ | .loadRegisters _ | .nativeCall _ => true
  | i => Instr.isDeferred i

/-- What the duties (a), (b) and (d) of R226 ask of an operation about to run. -/
def Instr.safeIn (s : Machine.State) : Instr → Prop
  | .subroutine _ => s.depth < 16
  | .ret => s.stack ≠ []
  | .dumpRegisters x | .loadRegisters x => s.index.toNat + x.toNat ≤ 0xFFF
  | i => Instr.mayFault i = false

/-- The five flag-writing operations (R23), with their destination X. -/
def Instr.flagDest : Instr → Option RegIndex
  | .add x _ | .sub x _ | .reverseSub x _ | .shiftRight x | .shiftLeft x => some x
  | _ => none

/-- The general registers an operation may write (R21): X for an ordinary destination, X and 15 for a flag-writing
operation, 0 to X for LoadRegisters. -/
def Instr.writesReg : Instr → RegIndex → Bool
  | .setRegConst x _, r | .addRegConst x _, r | .mov x _, r | .or x _, r | .and x _, r | .xor x _, r
  | .randMaskIntoReg x _, r | .getDelayTimer x, r => r == x
  | .add x _, r | .sub x _, r | .reverseSub x _, r | .shiftRight x, r | .shiftLeft x, r => r == x || r == flagReg
  | .loadRegisters x, r => decide (r.toNat ≤ x.toNat)
  | _, _ => false

/-- The operations that write `I` (R27). -/
def Instr.writesIndex : Instr → Bool
  | .setIndex _ | .addRegToIndex _ => true
  | _ => false

/-- The operations that push or pop (R31). -/
def Instr.writesStack : Instr → Bool
  | .subroutine _ | .ret => true
  | _ => false

/-- The operations that write `DT` (R33). -/
def Instr.writesDelay : Instr → Bool
  | .setDelayTimer _ => true
  | _ => false

/-- The operations that write `ST` (R33). -/
def Instr.writesSound : Instr → Bool
  | .setSoundTimer _ => true
  | _ => false

/-- The operations that consume a random byte (R170). -/
def Instr.drawsRandom : Instr → Bool
  | .randMaskIntoReg _ _ => true
  | _ => false

/-- The operations that assign `pc` themselves (R114); the others advance by 2. -/
def Instr.assignsPc : Instr → Bool
  | .goto _ | .subroutine _ | .ret | .jumpWithOffsetV0 _ | .skipIfRegEqualConst _ _ | .skipIfRegNotEqualConst _ _
  | .skipIfRegEqualReg _ _ | .skipIfRegNotEqualReg _ _ => true
  | _ => false

/-- The addresses an operation stores to (R54): DumpRegisters(X), the bytes `I` to `I + X` (R162); no other. -/
def Instr.storesTo (s : Machine.State) : Instr → Nat → Bool
  | .dumpRegisters x, a => decide (s.blockBase ≤ a) && decide (a ≤ s.blockBase + x.toNat)
  | _, _ => false

end Sys2Proof

namespace Sys2Proof.Machine

/-! ### Invariants -/

/-- Memory is in canonical form (log entry 2) and the depth is at most the capacity (R31). -/
def State.Inv (s : State) : Prop := Memory.wf s.mem = true ∧ s.depth ≤ stackCapacity

/-- The bounds of R30 and R141: `pc` is at most 0x10FE and every return address at most 0x1000. -/
def State.CodeInRange (s : State) : Prop := s.pc.toNat ≤ 0x10FE ∧ ∀ r ∈ s.stack, r.toNat ≤ 0x1000

/-! ### Words -/

/-- The illegal encodings, exactly (R95). -/
abbrev IllegalWord (hi lo : Byte) : Prop :=
  (hiNibble hi = 0x8#4 ∧ loNibble lo ∈ [0x8#4, 0x9#4, 0xA#4, 0xB#4, 0xC#4, 0xD#4, 0xF#4]) ∨
  (hiNibble hi = 0xE#4 ∧ lo ∉ [0x9E#8, 0xA1#8]) ∨
  (hiNibble hi = 0xF#4 ∧
    lo ∉ [0x07#8, 0x0A#8, 0x15#8, 0x18#8, 0x1E#8, 0x29#8, 0x33#8, 0x55#8, 0x65#8])

/-- A fetch at `pc` stays in memory (R111). -/
abbrev State.canFetch (s : State) : Prop := s.pc.toNat ≤ 0xFFE

/-- The high byte of the next instruction. -/
def State.nextHi (s : State) : Byte := s.readMem s.pc.toNat

/-- The low byte of the next instruction. -/
def State.nextLo (s : State) : Byte := s.readMem (s.pc.toNat + 1)

/-- The next step fetches and decodes the operation `i`. -/
def State.fetches (s : State) (i : Instr) : Prop := s.canFetch ∧ decode s.nextHi s.nextLo = .op i

/-! ### Faults -/

/-- The cause of each fault, as the table of R190 gives it. -/
def FaultCause (s : State) : Fault → Prop
  | .decodeError hi lo => s.canFetch ∧ hi = s.nextHi ∧ lo = s.nextLo ∧ IllegalWord hi lo
  | .stackUnderflow => s.fetches .ret ∧ s.stack = []
  | .stackOverflow => (∃ nnn, s.fetches (.subroutine nnn)) ∧ 16 ≤ s.depth
  | .memoryOutOfBounds addr .fetch => 0xFFE < s.pc.toNat ∧ addr = max s.pc.toNat 4096
  | .memoryOutOfBounds addr .data =>
      ∃ x, (s.fetches (.dumpRegisters x) ∨ s.fetches (.loadRegisters x)) ∧ 4095 < s.index.toNat + x.toNat ∧
        addr = max s.index.toNat 4096
  | .unimplementedOperation op => Instr.isDeferred op = true ∧ s.fetches op
  | .illegalNativeCall nnn => s.fetches (.nativeCall nnn)

/-- A state whose next step respects R226 (a) to (d): it fetches in memory a legal word whose operation is safe. -/
def State.SafeHere (s : State) : Prop := ∃ i, s.fetches i ∧ i.safeIn s

/-! ### Runs -/

/-- `END_OF_RUN` as the spec recommends it: a fixed point of the step (R119, decision D20; log entry 22). -/
def State.Ended (s : State) : Prop := step s = .next s

end Sys2Proof.Machine
end

