-- ==== Sys2Proof/Certificates/Slice0/Obligations.lean ====
section
/-! DEFINITION. The statements for the provers. A statement that rests on a point the spec decides itself (D<n> of
`92_eei_decisions.md`) or on a choice of the model says so and names the log entry. -/

open Sys2Proof Sys2Proof.Machine

/-! ## Encoding -/

/-- Decoding the canonical word of any well-formed instruction, at every operand value, gives it back (the sentence of
R102 "so that `Decode(Encode(op)) = op` for all 35 variants"; the canonical words are the spec's decision D19, log
entry 24). -/
def Obligations.DecodeOfEncodeIsIdentity : Prop :=
  ∀ i : Instr, i.wellFormed = true → decodeWord (encode i) = .op i

/-- The canonical words as numbers, operation by operation (R102; the spec's decision D19, log entry 24). -/
def Obligations.EncodeGivesTheCanonicalWords : Prop :=
  ∀ (nnn : Addr12) (x y : RegIndex) (n : Nibble) (nn : Byte),
    (encode .clearScreen).toNat = 0x00E0 ∧ (encode .ret).toNat = 0x00EE ∧
    ((Instr.nativeCall nnn).wellFormed = true → (encode (.nativeCall nnn)).toNat = nnn.toNat) ∧
    (encode (.goto nnn)).toNat = 0x1000 + nnn.toNat ∧
    (encode (.subroutine nnn)).toNat = 0x2000 + nnn.toNat ∧
    (encode (.skipIfRegEqualConst x nn)).toNat = 0x3000 + x.toNat * 0x100 + nn.toNat ∧
    (encode (.skipIfRegNotEqualConst x nn)).toNat = 0x4000 + x.toNat * 0x100 + nn.toNat ∧
    (encode (.skipIfRegEqualReg x y)).toNat = 0x5000 + x.toNat * 0x100 + y.toNat * 0x10 ∧
    (encode (.setRegConst x nn)).toNat = 0x6000 + x.toNat * 0x100 + nn.toNat ∧
    (encode (.addRegConst x nn)).toNat = 0x7000 + x.toNat * 0x100 + nn.toNat ∧
    (encode (.mov x y)).toNat = 0x8000 + x.toNat * 0x100 + y.toNat * 0x10 ∧
    (encode (.or x y)).toNat = 0x8001 + x.toNat * 0x100 + y.toNat * 0x10 ∧
    (encode (.and x y)).toNat = 0x8002 + x.toNat * 0x100 + y.toNat * 0x10 ∧
    (encode (.xor x y)).toNat = 0x8003 + x.toNat * 0x100 + y.toNat * 0x10 ∧
    (encode (.add x y)).toNat = 0x8004 + x.toNat * 0x100 + y.toNat * 0x10 ∧
    (encode (.sub x y)).toNat = 0x8005 + x.toNat * 0x100 + y.toNat * 0x10 ∧
    (encode (.shiftRight x)).toNat = 0x8006 + x.toNat * 0x100 ∧
    (encode (.reverseSub x y)).toNat = 0x8007 + x.toNat * 0x100 + y.toNat * 0x10 ∧
    (encode (.shiftLeft x)).toNat = 0x800E + x.toNat * 0x100 ∧
    (encode (.skipIfRegNotEqualReg x y)).toNat = 0x9000 + x.toNat * 0x100 + y.toNat * 0x10 ∧
    (encode (.setIndex nnn)).toNat = 0xA000 + nnn.toNat ∧
    (encode (.jumpWithOffsetV0 nnn)).toNat = 0xB000 + nnn.toNat ∧
    (encode (.randMaskIntoReg x nn)).toNat = 0xC000 + x.toNat * 0x100 + nn.toNat ∧
    (encode (.drawSprite x y n)).toNat = 0xD000 + x.toNat * 0x100 + y.toNat * 0x10 + n.toNat ∧
    (encode (.skipIfKeyPressed x)).toNat = 0xE09E + x.toNat * 0x100 ∧
    (encode (.skipIfKeyNotPressed x)).toNat = 0xE0A1 + x.toNat * 0x100 ∧
    (encode (.getDelayTimer x)).toNat = 0xF007 + x.toNat * 0x100 ∧
    (encode (.awaitKeyIntoReg x)).toNat = 0xF00A + x.toNat * 0x100 ∧
    (encode (.setDelayTimer x)).toNat = 0xF015 + x.toNat * 0x100 ∧
    (encode (.setSoundTimer x)).toNat = 0xF018 + x.toNat * 0x100 ∧
    (encode (.addRegToIndex x)).toNat = 0xF01E + x.toNat * 0x100 ∧
    (encode (.setIndexToGlyph x)).toNat = 0xF029 + x.toNat * 0x100 ∧
    (encode (.storeDecimalDigits x)).toNat = 0xF033 + x.toNat * 0x100 ∧
    (encode (.dumpRegisters x)).toNat = 0xF055 + x.toNat * 0x100 ∧
    (encode (.loadRegisters x)).toNat = 0xF065 + x.toNat * 0x100

/-- A decoded instruction is well-formed, and its canonical word is the decoded word with the unexamined nibble cleared
(R98, R102: for an alias word Encode "returns the canonical word"; which nibble is unexamined is the spec's decision
D18, log entry 15, and the canonical words its D19, log entry 24). -/
def Obligations.DecodedWordIsCanonicalUpToUnexaminedNibble : Prop :=
  ∀ (w : Word) (i : Instr), decodeWord w = .op i →
    i.wellFormed = true ∧ encode i = w &&& examinedMask i

/-- A pair of bytes is a decode error, with those two bytes as payload, exactly when it is one of the illegal
encodings, described word by word in `IllegalWord` (R95; the payload is the spec's decision D14, log entry 11). -/
def Obligations.DecodeErrorExactlyOnTheIllegalWords : Prop :=
  ∀ hi lo hi' lo' : Byte, decode hi lo = .decodeError hi' lo' ↔ IllegalWord hi lo ∧ hi' = hi ∧ lo' = lo

/-- The decoder and the opcode table's masks and patterns, tried in priority order, name the same operation on all
65536 words, and neither names one on the rest (R100). -/
def Obligations.DecoderAgreesWithTheOpcodeTable : Prop :=
  ∀ w : Word, (decodeWord w).mnemonic = tableMnemonic w

/-- The ten classes with one format and no unexamined nibble: every word of the class decodes to the operation, with X,
Y, N, NN or NNN taken from its place (R78 to R81, R83, R84, R87 to R90). -/
def Obligations.ClassesOfOneOperationDecode : Prop :=
  (∀ nnn : Addr12,
    decodeWord (0x1#4 ++ nnn) = .op (.goto nnn) ∧
    decodeWord (0x2#4 ++ nnn) = .op (.subroutine nnn) ∧
    decodeWord (0xA#4 ++ nnn) = .op (.setIndex nnn) ∧
    decodeWord (0xB#4 ++ nnn) = .op (.jumpWithOffsetV0 nnn)) ∧
  (∀ (x : Nibble) (nn : Byte),
    decode (0x3#4 ++ x) nn = .op (.skipIfRegEqualConst x nn) ∧
    decode (0x4#4 ++ x) nn = .op (.skipIfRegNotEqualConst x nn) ∧
    decode (0x6#4 ++ x) nn = .op (.setRegConst x nn) ∧
    decode (0x7#4 ++ x) nn = .op (.addRegConst x nn) ∧
    decode (0xC#4 ++ x) nn = .op (.randMaskIntoReg x nn)) ∧
  (∀ x y n : Nibble, decode (0xD#4 ++ x) (y ++ n) = .op (.drawSprite x y n))

/-- Classes E and F: the listed low bytes decode to their operations, and for every X every other low byte is a decode
error (R91, R92). -/
def Obligations.ClassesEAndFDecodeByTheirLowByte : Prop :=
  (∀ x : Nibble,
    decode (0xE#4 ++ x) 0x9E#8 = .op (.skipIfKeyPressed x) ∧
    decode (0xE#4 ++ x) 0xA1#8 = .op (.skipIfKeyNotPressed x) ∧
    decode (0xF#4 ++ x) 0x07#8 = .op (.getDelayTimer x) ∧
    decode (0xF#4 ++ x) 0x0A#8 = .op (.awaitKeyIntoReg x) ∧
    decode (0xF#4 ++ x) 0x15#8 = .op (.setDelayTimer x) ∧
    decode (0xF#4 ++ x) 0x18#8 = .op (.setSoundTimer x) ∧
    decode (0xF#4 ++ x) 0x1E#8 = .op (.addRegToIndex x) ∧
    decode (0xF#4 ++ x) 0x29#8 = .op (.setIndexToGlyph x) ∧
    decode (0xF#4 ++ x) 0x33#8 = .op (.storeDecimalDigits x) ∧
    decode (0xF#4 ++ x) 0x55#8 = .op (.dumpRegisters x) ∧
    decode (0xF#4 ++ x) 0x65#8 = .op (.loadRegisters x)) ∧
  (∀ (x : Nibble) (lo : Byte), lo ∉ [0x9E#8, 0xA1#8] →
    decode (0xE#4 ++ x) lo = .decodeError (0xE#4 ++ x) lo) ∧
  (∀ (x : Nibble) (lo : Byte),
    lo ∉ [0x07#8, 0x0A#8, 0x15#8, 0x18#8, 0x1E#8, 0x29#8, 0x33#8, 0x55#8, 0x65#8] →
    decode (0xF#4 ++ x) lo = .decodeError (0xF#4 ++ x) lo)

/-- Class 8 by its nibble N, with Y not examined by the shifts and the seven other N a decode error; classes 5 and 9
with N not examined (R82, R85, R86; that an unmentioned nibble is not examined is the spec's decision D18, log entry
15). -/
def Obligations.ClassesFiveEightAndNineDecode : Prop :=
  (∀ x y : Nibble,
    decode (0x8#4 ++ x) (y ++ 0x0#4) = .op (.mov x y) ∧
    decode (0x8#4 ++ x) (y ++ 0x1#4) = .op (.or x y) ∧
    decode (0x8#4 ++ x) (y ++ 0x2#4) = .op (.and x y) ∧
    decode (0x8#4 ++ x) (y ++ 0x3#4) = .op (.xor x y) ∧
    decode (0x8#4 ++ x) (y ++ 0x4#4) = .op (.add x y) ∧
    decode (0x8#4 ++ x) (y ++ 0x5#4) = .op (.sub x y) ∧
    decode (0x8#4 ++ x) (y ++ 0x6#4) = .op (.shiftRight x) ∧
    decode (0x8#4 ++ x) (y ++ 0x7#4) = .op (.reverseSub x y) ∧
    decode (0x8#4 ++ x) (y ++ 0xE#4) = .op (.shiftLeft x)) ∧
  (∀ x y n : Nibble, n ∈ [0x8#4, 0x9#4, 0xA#4, 0xB#4, 0xC#4, 0xD#4, 0xF#4] →
    decode (0x8#4 ++ x) (y ++ n) = .decodeError (0x8#4 ++ x) (y ++ n)) ∧
  (∀ x y n : Nibble,
    decode (0x5#4 ++ x) (y ++ n) = .op (.skipIfRegEqualReg x y) ∧
    decode (0x9#4 ++ x) (y ++ n) = .op (.skipIfRegNotEqualReg x y))

/-- Class 0: the low byte alone decides, and every other word is a NativeCall (R77, whose reading of the unexamined
nibble X is the spec's decision D18, log entry 15). -/
def Obligations.ClassZeroDecodesByItsLowByte : Prop :=
  ∀ (x : Nibble) (lo : Byte),
    decode (0x0#4 ++ x) 0xE0#8 = .op .clearScreen ∧
    decode (0x0#4 ++ x) 0xEE#8 = .op .ret ∧
    (lo ≠ 0xE0#8 → lo ≠ 0xEE#8 → decode (0x0#4 ++ x) lo = .op (.nativeCall (x ++ lo)))

/-- A few words of `95_test_vectors.md` section 2, one of every family, with an alias and an illegal word. -/
def Obligations.SampleWordsDecode : Prop :=
  decodeWord 0x8674#16 = .op (.add 6 7) ∧ decodeWord 0x1ABC#16 = .op (.goto 0xABC) ∧
  decodeWord 0xFB55#16 = .op (.dumpRegisters 11) ∧ decodeWord 0xC10F#16 = .op (.randMaskIntoReg 1 0x0F) ∧
  decodeWord 0xD125#16 = .op (.drawSprite 1 2 5) ∧ decodeWord 0x81F6#16 = .op (.shiftRight 1) ∧
  decodeWord 0x0FEE#16 = .op .ret ∧ decodeWord 0x812F#16 = .decodeError 0x81 0x2F

/-! ## The step -/

/-- When `pc` is at most 0xFFE and the two bytes there decode to an instruction, the step is `exec` of it at that very
state: the step adds nothing around `exec` (R113, R118). -/
def Obligations.StepRunsTheDecodedInstruction : Prop :=
  ∀ (s : State) (i : Instr), s.pc.toNat ≤ 0xFFE →
    decode (s.readMem s.pc.toNat) (s.readMem (s.pc.toNat + 1)) = .op i → step s = exec i s

/-- The two ways a step ends before executing: a fetch at `pc > 0xFFE` faults with `max(pc, 4096)`, and an illegal word
faults with its two bytes (R111, R113; the fetch fault is the spec's decision D9, log entry 8; the payloads are its D14,
log entry 11). -/
def Obligations.StepFaultsBeforeExecuting : Prop :=
  ∀ s : State,
    (0xFFE < s.pc.toNat → step s = .fault (.memoryOutOfBounds (max s.pc.toNat 4096) .fetch)) ∧
    (s.pc.toNat ≤ 0xFFE → ∀ hi lo : Byte,
      decode (s.readMem s.pc.toNat) (s.readMem (s.pc.toNat + 1)) = .decodeError hi lo →
      step s = .fault (.decodeError (s.readMem s.pc.toNat) (s.readMem (s.pc.toNat + 1))))

/-- No step is refused: it ends in a new state or in one of the six faults (R110, "There is no third outcome"). -/
def Obligations.StepNeverRefuses : Prop :=
  ∀ s : State, (∃ t, step s = .next t) ∨ ∃ f, step s = .fault f

/-- The table of R190, both ways: a step raises a fault exactly when that fault's cause holds (`FaultCause`), at every
state; in particular the priority of R198 holds. The rows rest on decisions of the spec: the capacity D5 (log entry 5),
the fetch fault D9 (log entry 8), the payloads D14 (log entry 11), the deferred seven D15 (log entry 12), the range check
and its address D8 (log entry 26) and the priority D21 (log entry 28). -/
def Obligations.StepFaultsExactlyWhenItsCauseHolds : Prop :=
  ∀ (s : State) (f : Fault), step s = .fault f ↔ FaultCause s f

/-- A step answers a next state exactly when the program respects the duties (a) to (d) of R226 there (`SafeHere`;
the capacity is the spec's decision D5, log entry 5; the fetch fault its D9, log entry 8; the deferred seven its D15,
log entry 12). -/
def Obligations.StepCompletesExactlyWhenSafe : Prop :=
  ∀ s : State, (∃ t, step s = .next t) ↔ s.SafeHere

/-- The report of a step: no fault, with the new state; or a fault with its code 1 to 6 and the state unchanged, and
then stepping again reports the same (R197, R200, R201; precise faults are the spec's decision D3, log entry 10;
the codes are its D14, log entry 11). -/
def Obligations.FaultReportKeepsStateAndRepeats : Prop :=
  ∀ s : State,
    ((report s).code = 0 ∧ step s = .next (report s).state) ∨
    (∃ f, step s = .fault f ∧ report s = ⟨s, some f⟩ ∧ (report s).code = f.code ∧ 1 ≤ f.code ∧ f.code ≤ 6 ∧
      report (report s).state = report s)

/-- The twenty-three operations that can never fault once decoded answer a next state at every state (R199). -/
def Obligations.TwentyThreeOperationsNeverFault : Prop :=
  ∀ (i : Instr) (s : State), i.mayFault = false → ∃ t, exec i s = .next t

/-- A Goto to its own address is a fixed point of the step (R119; taking it as the end of a run is decision D20, log
entry 22). -/
def Obligations.GotoToItselfIsAFixedPoint : Prop :=
  ∀ (s : State) (nnn : Addr12), s.pc.toNat = nnn.toNat → s.fetches (.goto nnn) → s.Ended

/-! ## ALU and register instructions -/

/-- Add(X, Y): the sum modulo 256 into X; with X not 15 the carry into `x[15]`; with X = 15 the sum stays (R122; the
X = 15 case is the spec's decision D6, log entry 6). -/
def Obligations.AddStoresSumAndCarry : Prop :=
  ∀ (x y : RegIndex) (s : State), ∃ t, exec (.add x y) s = .next t ∧
    (t.reg x).toNat = ((s.reg x).toNat + (s.reg y).toNat) % 256 ∧
    (x ≠ flagReg → t.reg flagReg = if 255 < (s.reg x).toNat + (s.reg y).toNat then 1 else 0) ∧
    t.pc = s.pc + 2

/-- Sub(X, Y): `x[X] - x[Y]` modulo 256 into X; with X not 15, 1 into `x[15]` when `x[X] >= x[Y]`, else 0 (R123; the
X = 15 case is the spec's decision D6, log entry 6). -/
def Obligations.SubStoresDifferenceAndNoBorrow : Prop :=
  ∀ (x y : RegIndex) (s : State), ∃ t, exec (.sub x y) s = .next t ∧
    ((t.reg x).toNat : Int) = ((s.reg x).toNat - (s.reg y).toNat : Int) % 256 ∧
    (x ≠ flagReg → t.reg flagReg = if (s.reg y).toNat ≤ (s.reg x).toNat then 1 else 0) ∧
    t.pc = s.pc + 2

/-- ReverseSub(X, Y): `x[Y] - x[X]` modulo 256 into X; with X not 15, 1 into `x[15]` when `x[Y] >= x[X]`, else 0 (R124;
the X = 15 case is the spec's decision D6, log entry 6). -/
def Obligations.ReverseSubStoresDifferenceAndNoBorrow : Prop :=
  ∀ (x y : RegIndex) (s : State), ∃ t, exec (.reverseSub x y) s = .next t ∧
    ((t.reg x).toNat : Int) = ((s.reg y).toNat - (s.reg x).toNat : Int) % 256 ∧
    (x ≠ flagReg → t.reg flagReg = if (s.reg x).toNat ≤ (s.reg y).toNat then 1 else 0) ∧
    t.pc = s.pc + 2

/-- ShiftRight(X): half of X, rounded down, into X; with X not 15 the bit shifted out into `x[15]` (R129; the X = 15
case is the spec's decision D6, log entry 6; zero fill is C1, log entry 20). -/
def Obligations.ShiftRightHalvesAndStoresBitOut : Prop :=
  ∀ (x : RegIndex) (s : State), ∃ t, exec (.shiftRight x) s = .next t ∧
    (t.reg x).toNat = (s.reg x).toNat / 2 ∧
    (x ≠ flagReg → (t.reg flagReg).toNat = (s.reg x).toNat % 2) ∧
    t.pc = s.pc + 2

/-- ShiftLeft(X): twice X modulo 256 into X; with X not 15 the bit shifted out into `x[15]` (R130; the X = 15 case is
the spec's decision D6, log entry 6). -/
def Obligations.ShiftLeftDoublesAndStoresBitOut : Prop :=
  ∀ (x : RegIndex) (s : State), ∃ t, exec (.shiftLeft x) s = .next t ∧
    (t.reg x).toNat = (s.reg x).toNat * 2 % 256 ∧
    (x ≠ flagReg → (t.reg flagReg).toNat = (s.reg x).toNat / 128) ∧
    t.pc = s.pc + 2

/-- Mov, Or, And and Xor write X from X and Y, bit by bit, and advance; `x[15]` gets no flag (R125 to R128; that X is
the destination is general knowledge of the spec, G2 and G3, log entry 16). -/
def Obligations.BitwiseOperationsWriteX : Prop :=
  ∀ (x y : RegIndex) (s : State),
    (∃ t, exec (.mov x y) s = .next t ∧ t.reg x = s.reg y ∧ t.pc = s.pc + 2 ∧
      (x ≠ flagReg → t.reg flagReg = s.reg flagReg)) ∧
    (∃ t, exec (.or x y) s = .next t ∧ t.pc = s.pc + 2 ∧ (x ≠ flagReg → t.reg flagReg = s.reg flagReg) ∧
      ∀ b, (t.reg x).getLsbD b = ((s.reg x).getLsbD b || (s.reg y).getLsbD b)) ∧
    (∃ t, exec (.and x y) s = .next t ∧ t.pc = s.pc + 2 ∧ (x ≠ flagReg → t.reg flagReg = s.reg flagReg) ∧
      ∀ b, (t.reg x).getLsbD b = ((s.reg x).getLsbD b && (s.reg y).getLsbD b)) ∧
    (∃ t, exec (.xor x y) s = .next t ∧ t.pc = s.pc + 2 ∧ (x ≠ flagReg → t.reg flagReg = s.reg flagReg) ∧
      ∀ b, (t.reg x).getLsbD b = ((s.reg x).getLsbD b ^^ (s.reg y).getLsbD b))

/-- SetRegConst(X, NN): `x[X]` is NN, every other register as it was (R131, read from the name, log entry 27). -/
def Obligations.SetRegConstWritesTheConstant : Prop :=
  ∀ (x : RegIndex) (nn : Byte) (s : State), ∃ t, exec (.setRegConst x nn) s = .next t ∧
    t.pc = s.pc + 2 ∧ ∀ r, t.reg r = if r = x then nn else s.reg r

/-- AddRegConst(X, NN): the sum modulo 256 into X, and `x[15]` is not touched unless X = 15, where it receives the sum
as an ordinary destination; NN = 0 changes no register; no exception; word `7XNN` (R132). -/
def Obligations.AddRegConstWrapsWithoutFlag : Prop :=
  ∀ (x : RegIndex) (nn : Byte) (s : State), decode (0x7#4 ++ x) nn = .op (.addRegConst x nn) ∧
    ∃ t, exec (.addRegConst x nn) s = .next t ∧
      (t.reg x).toNat = ((s.reg x).toNat + nn.toNat) % 256 ∧
      (∀ r, r ≠ x → t.reg r = s.reg r) ∧
      (nn = 0 → t.reg x = s.reg x) ∧ t.pc = s.pc + 2

/-- The register file: sixteen 8-bit cells that no write aliases, so that a write to `x[i]` changes `x[i]` and no other
register (R20). -/
def Obligations.RegisterFileReadAfterWrite : Prop :=
  ∀ (s : State) (i : RegIndex) (v : Byte), (s.setReg i v).reg i = v ∧
    ∀ j : RegIndex, j ≠ i → (s.setReg i v).reg j = s.reg j

/-- The five flag-writing operations store a whole byte 0x00 or 0x01 into `x[15]` when X is not 15, whatever `x[15]`
held (R23, R24). -/
def Obligations.FlagIsAWholeByteZeroOrOne : Prop :=
  ∀ (i : Instr) (x : RegIndex) (s t : State), i.flagDest = some x → x ≠ flagReg → exec i s = .next t →
    t.reg flagReg = 0x00#8 ∨ t.reg flagReg = 0x01#8

/-- The five flag-writing operations at X = 15: the result replaces the flag, computed from the operands as they were
(R121, the spec's decision D6, log entry 6). -/
def Obligations.ResultReplacesFlagInRegisterFifteen : Prop :=
  ∀ (y : RegIndex) (s : State),
    (∃ t, exec (.add flagReg y) s = .next t ∧
      (t.reg flagReg).toNat = ((s.reg flagReg).toNat + (s.reg y).toNat) % 256) ∧
    (∃ t, exec (.sub flagReg y) s = .next t ∧
      ((t.reg flagReg).toNat : Int) = ((s.reg flagReg).toNat - (s.reg y).toNat : Int) % 256) ∧
    (∃ t, exec (.reverseSub flagReg y) s = .next t ∧
      ((t.reg flagReg).toNat : Int) = ((s.reg y).toNat - (s.reg flagReg).toNat : Int) % 256) ∧
    (∃ t, exec (.shiftRight flagReg) s = .next t ∧ (t.reg flagReg).toNat = (s.reg flagReg).toNat / 2) ∧
    (∃ t, exec (.shiftLeft flagReg) s = .next t ∧ (t.reg flagReg).toNat = (s.reg flagReg).toNat * 2 % 256)

/-! ## Control flow -/

/-- Goto(NNN), the word `1NNN`: `pc` is NNN and nothing else changes, so no flag, no stack, no exception, for any NNN,
odd, below 0x200 or the Goto's own address; if NNN = 0xFFF the next fetch faults (R140; the fetch fault
is the spec's decision D9, log entry 8). -/
def Obligations.GotoSetsPc : Prop :=
  ∀ (nnn : Addr12) (s : State), decodeWord (0x1#4 ++ nnn) = .op (.goto nnn) ∧
    ∃ t, exec (.goto nnn) s = .next t ∧ t = { s with pc := t.pc } ∧ t.pc.toNat = nnn.toNat ∧
      (nnn = 0xFFF#12 → step t = .fault (.memoryOutOfBounds 4096 .fetch))

/-- Subroutine(NNN): with fewer than 16 entries it pushes `pc + 2` and jumps; with a full stack it faults with
StackOverflow (R141; the capacity is the spec's decision D5, log entry 5; that `pc + 2` is pushed is D2, log entry 9). -/
def Obligations.SubroutinePushesAndJumps : Prop :=
  ∀ (nnn : Addr12) (s : State),
    (s.stack.length < 16 → ∃ t, exec (.subroutine nnn) s = .next t ∧ t.stack = s.stack ++ [s.pc + 2] ∧
      t.pc.toNat = nnn.toNat) ∧
    (16 ≤ s.stack.length → exec (.subroutine nnn) s = .fault .stackOverflow)

/-- Return: `pc` is the last entry pushed, with nothing added, and the stack loses it; with an empty stack it faults
with StackUnderflow; a popped value above 0xFFE is taken unchecked and the next fetch faults (R142, whose encoding
clause cites R77; the fetch fault is the spec's decision D9, log entry 8). -/
def Obligations.ReturnPopsIntoPc : Prop :=
  (∀ (s : State) (rest : List Word) (v : Word), s.stack = rest ++ [v] →
    ∃ t, exec .ret s = .next t ∧ t = { s with pc := v, stack := rest } ∧
      (0xFFE < v.toNat → step t = .fault (.memoryOutOfBounds (max v.toNat 4096) .fetch))) ∧
  (∀ s : State, s.stack = [] → exec .ret s = .fault .stackUnderflow)

/-- A call and the matching return: after Subroutine at `pc = p` with stack `st`, whatever happens to the rest of the
state, a Return executed with the stack as the call left it gives `pc = p + 2` and the stack `st` (R149, derived in the
spec from R141 and R142; what is pushed is the spec's decision D2, log entry 9). -/
def Obligations.ReturnAfterCallRestoresPcAndStack : Prop :=
  ∀ (nnn : Addr12) (s t u : State), exec (.subroutine nnn) s = .next t → u.stack = t.stack →
    ∃ v, exec .ret u = .next v ∧ v.pc = s.pc + 2 ∧ v.stack = s.stack

/-- JumpWithOffsetV0(NNN), the word `BNNN`: `pc` is NNN plus register 0, exact and not reduced modulo 4096, and nothing
else changes: no flag, no stack, no exception at the jump; a target above 0xFFE faults at the next fetch (R143; the fetch fault
is the spec's decision D9, log entry 8). -/
def Obligations.JumpWithOffsetAddsRegisterZero : Prop :=
  ∀ (nnn : Addr12) (s : State), decodeWord (0xB#4 ++ nnn) = .op (.jumpWithOffsetV0 nnn) ∧
    ∃ t, exec (.jumpWithOffsetV0 nnn) s = .next t ∧ t = { s with pc := t.pc } ∧
      t.pc.toNat = nnn.toNat + (s.reg 0).toNat ∧
      (0xFFE < t.pc.toNat → step t = .fault (.memoryOutOfBounds (max t.pc.toNat 4096) .fetch))

/-- The four skips: `pc + 4` when the condition holds, `pc + 2` when it does not, and nothing else changes; with X = Y
the equal skip always skips and the not-equal skip never does (R144 to R147; that the conditions are equality and
inequality is read from the names, log entry 27). -/
def Obligations.SkipsAdvanceByFourOrTwo : Prop :=
  ∀ (x y : RegIndex) (nn : Byte) (s : State),
    exec (.skipIfRegEqualConst x nn) s =
      .next { s with pc := if s.reg x = nn then s.pc + 4 else s.pc + 2 } ∧
    exec (.skipIfRegNotEqualConst x nn) s =
      .next { s with pc := if s.reg x ≠ nn then s.pc + 4 else s.pc + 2 } ∧
    exec (.skipIfRegEqualReg x y) s =
      .next { s with pc := if s.reg x = s.reg y then s.pc + 4 else s.pc + 2 } ∧
    exec (.skipIfRegNotEqualReg x y) s =
      .next { s with pc := if s.reg x ≠ s.reg y then s.pc + 4 else s.pc + 2 } ∧
    exec (.skipIfRegEqualReg x x) s = .next { s with pc := s.pc + 4 } ∧
    exec (.skipIfRegNotEqualReg x x) s = .next { s with pc := s.pc + 2 }

/-! ## Index register and block transfers -/

/-- SetIndex(NNN), the word `ANNN`: `I` is NNN, at most 0xFFF whatever it was, and nothing but `pc` changes besides: no
flag, no exception (R160). -/
def Obligations.SetIndexAssignsI : Prop :=
  ∀ (nnn : Addr12) (s : State), decodeWord (0xA#4 ++ nnn) = .op (.setIndex nnn) ∧
    ∃ t, exec (.setIndex nnn) s = .next t ∧ t = { s with index := t.index, pc := s.pc + 2 } ∧
      t.index.toNat = nnn.toNat ∧ t.index.toNat ≤ 0xFFF

/-- AddRegToIndex(X): `I` is the sum modulo 65536, every register as it was, no fault (R161, the 16-bit wrap is the
spec's decision D7, log entry 7). -/
def Obligations.AddRegToIndexWrapsAtSixteenBits : Prop :=
  ∀ (x : RegIndex) (s : State), ∃ t, exec (.addRegToIndex x) s = .next t ∧
    t.index.toNat = (s.index.toNat + (s.reg x).toNat) % 65536 ∧ (∀ r, t.reg r = s.reg r) ∧ t.pc = s.pc + 2

/-- DumpRegisters(X): with `I + X` at most 0xFFF, byte `I + j` becomes `x[j]` for `j` up to X, every other byte is as
it was, and `I` is unchanged; otherwise it faults, with `max(I, 4096)` (R162; the check of the whole range and the
payload are the spec's decision D8, log entry 26). -/
def Obligations.DumpRegistersStoresTheBlock : Prop :=
  ∀ (x : RegIndex) (s : State),
    (s.index.toNat + x.toNat ≤ 0xFFF → ∃ t, exec (.dumpRegisters x) s = .next t ∧
      (∀ j : RegIndex, j.toNat ≤ x.toNat → t.readMem (s.index.toNat + j.toNat) = s.reg j) ∧
      (∀ a, a < s.index.toNat ∨ s.index.toNat + x.toNat < a → t.readMem a = s.readMem a) ∧
      t.index = s.index ∧ t.pc = s.pc + 2) ∧
    (0xFFF < s.index.toNat + x.toNat →
      exec (.dumpRegisters x) s = .fault (.memoryOutOfBounds (max s.index.toNat 4096) .data))

/-- LoadRegisters(X): with `I + X` at most 0xFFF, `x[j]` becomes byte `I + j` for `j` up to X, the other registers and
all of memory and `I` are as they were; otherwise it faults, with `max(I, 4096)` (R163; the check of
the whole range and the payload are the spec's decision D8, log entry 26). -/
def Obligations.LoadRegistersReadsTheBlock : Prop :=
  ∀ (x : RegIndex) (s : State),
    (s.index.toNat + x.toNat ≤ 0xFFF → ∃ t, exec (.loadRegisters x) s = .next t ∧
      (∀ j : RegIndex, t.reg j = if j.toNat ≤ x.toNat then s.readMem (s.index.toNat + j.toNat) else s.reg j) ∧
      (∀ a, t.readMem a = s.readMem a) ∧ t.index = s.index ∧ t.pc = s.pc + 2) ∧
    (0xFFF < s.index.toNat + x.toNat →
      exec (.loadRegisters x) s = .fault (.memoryOutOfBounds (max s.index.toNat 4096) .data))

/-- DumpRegisters(X) and later LoadRegisters(X) with the same `I`, the stored bytes not rewritten in between, restore
`x[0..X]` to the values dumped, whatever the registers held in between (R165, derived in the spec; the range
check is its decision D8, log entry 26). -/
def Obligations.LoadAfterDumpRestoresRegisters : Prop :=
  ∀ (x : RegIndex) (s t u : State), exec (.dumpRegisters x) s = .next t → u.index = s.index →
    (∀ a, s.index.toNat ≤ a → a ≤ s.index.toNat + x.toNat → u.readMem a = t.readMem a) →
    ∃ v, exec (.loadRegisters x) u = .next v ∧ ∀ j : RegIndex, j.toNat ≤ x.toNat → v.reg j = s.reg j

/-- A store is seen by the very next fetch: when DumpRegisters(X) at `pc = p` stored over the bytes at `p + 2` and
`p + 3`, the next step decodes the registers stored there (R67, derived in the spec). -/
def Obligations.NextFetchSeesTheStore : Prop :=
  ∀ (x j k : RegIndex) (s t : State) (i : Instr), exec (.dumpRegisters x) s = .next t →
    s.pc.toNat + 2 = s.index.toNat + j.toNat → k.toNat = j.toNat + 1 → k.toNat ≤ x.toNat →
    decode (s.reg j) (s.reg k) = .op i → step t = exec i t

/-! ## Random byte and timers -/

/-- RandMaskIntoReg(X, NN): some byte `r`, the host's, masked with NN, into X; a bit that is 0 in NN is 0 in X; one
random byte is consumed (R170, with the byte a free value, decision D17, log entry 4: the statement holds for every
value of it and of the counter). -/
def Obligations.RandMaskStoresAMaskedByte : Prop :=
  ∀ (x : RegIndex) (nn : Byte) (s : State), ∃ t, exec (.randMaskIntoReg x nn) s = .next t ∧
    t.reg x = Config.randByte s.randDraws &&& nn ∧ (∀ b, nn.getLsbD b = false → (t.reg x).getLsbD b = false) ∧
    t.randDraws = s.randDraws + 1 ∧ t.pc = s.pc + 2

/-- GetDelayTimer, SetDelayTimer and SetSoundTimer move one byte between register X and the timer and change nothing
else but `pc` (R171 to R174; the meanings are the spec's decision D16, log entry 13). -/
def Obligations.TimerInstructionsMoveOneByte : Prop :=
  ∀ (x : RegIndex) (s : State),
    (∃ t, exec (.getDelayTimer x) s = .next t ∧ t.reg x = s.delay ∧ t.delay = s.delay ∧ t.sound = s.sound ∧
      t.pc = s.pc + 2) ∧
    exec (.setDelayTimer x) s = .next { s with delay := s.reg x, pc := s.pc + 2 } ∧
    exec (.setSoundTimer x) s = .next { s with sound := s.reg x, pc := s.pc + 2 }

/-! ## Deferred instructions and NativeCall -/

/-- Each of the seven deferred instructions faults with UnimplementedOperation and its operands at every state, and
does nothing else (R180 to R187; that no collaborator is wired is the spec's decision D15, log entry 12). -/
def Obligations.DeferredInstructionsAlwaysFault : Prop :=
  ∀ (x y : RegIndex) (n : Nibble) (s : State),
    exec .clearScreen s = .fault (.unimplementedOperation .clearScreen) ∧
    exec (.drawSprite x y n) s = .fault (.unimplementedOperation (.drawSprite x y n)) ∧
    exec (.skipIfKeyPressed x) s = .fault (.unimplementedOperation (.skipIfKeyPressed x)) ∧
    exec (.skipIfKeyNotPressed x) s = .fault (.unimplementedOperation (.skipIfKeyNotPressed x)) ∧
    exec (.awaitKeyIntoReg x) s = .fault (.unimplementedOperation (.awaitKeyIntoReg x)) ∧
    exec (.storeDecimalDigits x) s = .fault (.unimplementedOperation (.storeDecimalDigits x)) ∧
    exec (.setIndexToGlyph x) s = .fault (.unimplementedOperation (.setIndexToGlyph x))

/-- NativeCall(NNN), the word `0NNN` with a low byte that is neither 0xE0 nor 0xEE, faults with IllegalNativeCall(NNN)
at every state, and a step that fetches it reports that fault with the state unchanged; the all-zero word is
NativeCall(0x000) (R188, R196). -/
def Obligations.NativeCallAlwaysFaults : Prop :=
  (∀ (nnn : Addr12) (s : State), exec (.nativeCall nnn) s = .fault (.illegalNativeCall nnn)) ∧
  (∀ (x : Nibble) (lo : Byte), lo ≠ 0xE0#8 → lo ≠ 0xEE#8 →
    decode (0x0#4 ++ x) lo = .op (.nativeCall (x ++ lo))) ∧
  (∀ (nnn : Addr12) (s : State), s.fetches (.nativeCall nnn) → report s = ⟨s, some (.illegalNativeCall nnn)⟩) ∧
  decode 0x00#8 0x00#8 = .op (.nativeCall 0x000)

/-! ## Frames: what an operation leaves unchanged -/

/-- Every general register, `x[15]` among them, keeps its value unless the operation writes it: X for SetRegConst,
AddRegConst, Mov, Or, And, Xor, RandMaskIntoReg and GetDelayTimer; X and 15 for Add, Sub, ReverseSub, ShiftRight and
ShiftLeft; 0 to X for LoadRegisters; none for every other operation (R21, R23). -/
def Obligations.RegistersOutsideTheDestinationAreUnchanged : Prop :=
  ∀ (i : Instr) (s t : State), exec i s = .next t → ∀ r : RegIndex, i.writesReg r = false → t.reg r = s.reg r

/-- Every byte of memory reads as before, but for DumpRegisters(X) the bytes from `s.blockBase`, which is `I`, to
`s.blockBase + X`: for every other operation all of memory (R54, R162). -/
def Obligations.MemoryOutsideTheStoreIsUnchanged : Prop :=
  ∀ (i : Instr) (s t : State), exec i s = .next t → ∀ a : Nat, i.storesTo s a = false → t.readMem a = s.readMem a

/-- `I`, the stack, `DT`, `ST` and the draw counter keep their values but for the operations that write them: SetIndex
and AddRegToIndex (`I`), Subroutine and Return (the stack), SetDelayTimer (`DT`), SetSoundTimer (`ST`),
RandMaskIntoReg (the counter); and `pc` is `pc + 2` but for the control-flow operations (R27, R31, R33, R114, R170;
the counter is the model's own, log entry 4, DESIGN CHOICE). -/
def Obligations.OtherStateIsUnchanged : Prop :=
  ∀ (i : Instr) (s t : State), exec i s = .next t →
    (i.writesIndex = false → t.index = s.index) ∧
    (i.writesStack = false → t.stack = s.stack) ∧
    (i.writesDelay = false → t.delay = s.delay) ∧
    (i.writesSound = false → t.sound = s.sound) ∧
    (i.drawsRandom = false → t.randDraws = s.randDraws) ∧
    (i.assignsPc = false → t.pc = s.pc + 2)

/-! ## Noninterference -/

/-- No instruction reads `ST`: two states that differ only in `ST` step alike, and the results differ at most in `ST`
(R33, R173). -/
def Obligations.SoundTimerInfluencesNothing : Prop :=
  ∀ (s : State) (v : Byte),
    (∀ f, step s = .fault f → step { s with sound := v } = .fault f) ∧
    (∀ t, step s = .next t → ∃ w, step { s with sound := v } = .next { t with sound := w })

/-- The random source influences a step only through RandMaskIntoReg: with any other operation fetched, changing the
draw counter changes nothing but the counter (R117; the counter is the model's own, log entry 4, DESIGN CHOICE). -/
def Obligations.RandomByteInfluencesOnlyRandMask : Prop :=
  ∀ (s : State) (n : Nat), (∀ x nn, ¬ s.fetches (.randMaskIntoReg x nn)) →
    (∀ f, step s = .fault f → step { s with randDraws := n } = .fault f) ∧
    (∀ t, step s = .next t → step { s with randDraws := n } = .next { t with randDraws := n })

/-! ## Memory -/

/-- MemWrite sets one byte and changes no other byte, and what MemRead returns afterwards says so (R56, R57). -/
def Obligations.MemoryReadAfterWrite : Prop :=
  ∀ (m : Memory) (a b : Nat) (v : Byte),
    Memory.read (Memory.write m a v) b = if b = a then v else Memory.read m b

/-- Two canonical memories that list the same byte, or none, at every address are the same list (the model's canonical
form, log entry 2, DESIGN CHOICE). -/
def Obligations.CanonicalMemoriesThatListAlikeAreEqual : Prop :=
  ∀ m m' : Memory, Memory.wf m = true → Memory.wf m' = true →
    (∀ a, Memory.stored m a = Memory.stored m' a) → m = m'

/-! ## Invariants -/

/-- Every step keeps memory canonical and the depth at most 16 (R31; the canonical form is the model's choice, log entry
2, DESIGN CHOICE; the capacity is the spec's decision D5, log entry 5). -/
def Obligations.StepKeepsMemoryAndStackBounds : Prop :=
  ∀ s t : State, s.Inv → step s = .next t → t.Inv

/-- Every step keeps `pc` at most 0x10FE and every return address at most 0x1000 (R30 and R141, derived in the
spec from its decisions D2, log entry 9, and D9, log entry 8). -/
def Obligations.StepKeepsCodeAddressesInRange : Prop :=
  ∀ s t : State, s.CodeInRange → step s = .next t → t.CodeInRange

/-- Both invariants hold of the reset state, after a reset by the host at any state, and after any image is loaded (R220,
R222, R224). The reset values are the spec's decision D11 (log entry 3) and the capacity its D5 (log entry 5); the
canonical form of memory is the model's choice (log entry 2, DESIGN CHOICE), and so is a host's reset that leaves memory
listing nothing and keeps the draw counter (log entry 14, DESIGN CHOICE). -/
def Obligations.ResetAndLaunchMeetTheInvariants : Prop :=
  ∀ (image : Vector Byte 4096) (s : State),
    State.reset.Inv ∧ State.reset.CodeInRange ∧ s.resetNow.Inv ∧ s.resetNow.CodeInRange ∧
    (State.launch image).Inv ∧ (State.launch image).CodeInRange

/-- Every run of host actions, resets, loads, steps, timer, register and stack writes in any order, keeps memory
canonical and the depth at most 16 (R31, R32, R210; the canonical form is the model's choice, log entry 2, DESIGN
CHOICE; the capacity is the spec's decision D5, log entry 5; the actions, and that a reset leaves memory listing nothing
and keeps the draw counter, are log entry 14, DESIGN CHOICE). -/
def Obligations.HostRunsKeepMemoryAndStackBounds : Prop :=
  ∀ (as : List HostAction) (s t : State), s.Inv → runActions as s = .next t → t.Inv

/-- Every run of steps and host timer writes, under any `HOST_TIMER_POLICY`, keeps `pc` and the return addresses in
range (R206; D16, log entry 13). -/
def Obligations.RunsUnderAnyTimerPolicyKeepCodeInRange : Prop :=
  ∀ (as : List HostAction) (s t : State), (∀ a ∈ as, a.inRun = true) → s.CodeInRange →
    runActions as s = .next t → t.CodeInRange

/-! ## Reset -/

/-- After reset and the host's load the registers, `I`, the timers and the stack are zero or empty, `pc` is 0x0200 and
memory is the image, every byte of it (R40 to R45, R224; the values are the spec's decision D11, log entry 3). -/
def Obligations.LaunchStateHasResetValuesAndImage : Prop :=
  ∀ image : Vector Byte 4096,
    (∀ r, (State.launch image).reg r = 0) ∧ (State.launch image).index = 0 ∧
    (State.launch image).pc.toNat = 0x200 ∧ (State.launch image).stack = [] ∧
    (State.launch image).delay = 0 ∧ (State.launch image).sound = 0 ∧
    ∀ (a : Nat) (h : a < 4096), (State.launch image).readMem a = image[a]

/-- The fault codes, in the order of R190 (the numbers are the spec's decision D14, log entry 11). -/
def Obligations.FaultCodesAreOneToSix : Prop :=
  ∀ (hi lo : Byte) (a : Nat) (c : AccessCause) (op : Instr) (nnn : Addr12),
    (Fault.decodeError hi lo).code = 1 ∧ Fault.stackUnderflow.code = 2 ∧ Fault.stackOverflow.code = 3 ∧
    (Fault.memoryOutOfBounds a c).code = 4 ∧ (Fault.unimplementedOperation op).code = 5 ∧
    (Fault.illegalNativeCall nnn).code = 6
end

