-- ==== Sys2Proof/Laws/Encoding.lean ====
section
/-! SUPPORT. The fields of assembled words (R72, R74), and the decoder by classes. -/

namespace Sys2Proof

/-! ### Fields of assembled bytes and words -/

@[simp] theorem hiNibble_append (c x : Nibble) : hiNibble (c ++ x) = c := by
  apply BitVec.eq_of_toNat_eq
  have := x.isLt
  have := c.isLt
  simp only [hiNibble, BitVec.extractLsb'_toNat, BitVec.toNat_append, Nat.shiftRight_eq_div_pow]
  rw [← Nat.shiftLeft_add_eq_or_of_lt x.isLt, Nat.shiftLeft_eq]
  omega

@[simp] theorem loNibble_append (c x : Nibble) : loNibble (c ++ x) = x := by
  apply BitVec.eq_of_toNat_eq
  have := x.isLt
  have := c.isLt
  simp only [loNibble, BitVec.extractLsb'_toNat, BitVec.toNat_append, Nat.shiftRight_eq_div_pow]
  rw [← Nat.shiftLeft_add_eq_or_of_lt x.isLt, Nat.shiftLeft_eq]
  omega

@[simp] theorem hiByte_append (h l : Byte) : hiByte (h ++ l) = h := by
  apply BitVec.eq_of_toNat_eq
  have := l.isLt
  have := h.isLt
  simp only [hiByte, BitVec.extractLsb'_toNat, BitVec.toNat_append, Nat.shiftRight_eq_div_pow]
  rw [← Nat.shiftLeft_add_eq_or_of_lt l.isLt, Nat.shiftLeft_eq]
  omega

@[simp] theorem loByte_append (h l : Byte) : loByte (h ++ l) = l := by
  apply BitVec.eq_of_toNat_eq
  have := l.isLt
  have := h.isLt
  simp only [loByte, BitVec.extractLsb'_toNat, BitVec.toNat_append, Nat.shiftRight_eq_div_pow]
  rw [← Nat.shiftLeft_add_eq_or_of_lt l.isLt, Nat.shiftLeft_eq]
  omega

/-- A byte is its two nibbles. -/
theorem nibbles_append (b : Byte) : hiNibble b ++ loNibble b = b := by
  revert b; decide

/-- A word is its two bytes. -/
theorem bytes_append (w : Word) : hiByte w ++ loByte w = w := by
  apply BitVec.eq_of_toNat_eq
  have := w.isLt
  simp only [hiByte, loByte, BitVec.extractLsb'_toNat, BitVec.toNat_append, Nat.shiftRight_eq_div_pow]
  rw [← Nat.shiftLeft_add_eq_or_of_lt (by omega), Nat.shiftLeft_eq]
  omega

/-- An address operand is its top nibble and its low byte (R72). -/
theorem addrField_split (nnn : Addr12) : addrField (nnn.extractLsb' 8 4) (nnn.extractLsb' 0 8) = nnn := by
  apply BitVec.eq_of_toNat_eq
  have := nnn.isLt
  simp only [addrField, BitVec.extractLsb'_toNat, BitVec.toNat_append, Nat.shiftRight_eq_div_pow]
  rw [← Nat.shiftLeft_add_eq_or_of_lt (by omega), Nat.shiftLeft_eq]
  omega

@[simp] theorem hiByte_formNNN (c : Nibble) (nnn : Addr12) : hiByte (formNNN c nnn) = c ++ nnn.extractLsb' 8 4 := by
  apply BitVec.eq_of_toNat_eq
  have := nnn.isLt
  have := c.isLt
  simp only [hiByte, formNNN, BitVec.extractLsb'_toNat, BitVec.toNat_append, Nat.shiftRight_eq_div_pow]
  rw [← Nat.shiftLeft_add_eq_or_of_lt nnn.isLt, ← Nat.shiftLeft_add_eq_or_of_lt (by omega), Nat.shiftLeft_eq,
    Nat.shiftLeft_eq]
  omega

@[simp] theorem loByte_formNNN (c : Nibble) (nnn : Addr12) : loByte (formNNN c nnn) = nnn.extractLsb' 0 8 := by
  apply BitVec.eq_of_toNat_eq
  have := nnn.isLt
  have := c.isLt
  simp only [loByte, formNNN, BitVec.extractLsb'_toNat, BitVec.toNat_append, Nat.shiftRight_eq_div_pow]
  rw [← Nat.shiftLeft_add_eq_or_of_lt nnn.isLt, Nat.shiftLeft_eq]
  omega

@[simp] theorem hiByte_formXNN (c x : Nibble) (nn : Byte) : hiByte (formXNN c x nn) = c ++ x := hiByte_append _ _
@[simp] theorem loByte_formXNN (c x : Nibble) (nn : Byte) : loByte (formXNN c x nn) = nn := loByte_append _ _
@[simp] theorem hiByte_formXYN (c x y n : Nibble) : hiByte (formXYN c x y n) = c ++ x := hiByte_append _ _
@[simp] theorem loByte_formXYN (c x y n : Nibble) : loByte (formXYN c x y n) = y ++ n := loByte_append _ _

/-! ### The decoder by the forms of a word -/

@[simp] theorem decodeAnswer_some (hi lo : Byte) (i : Instr) : decodeAnswer hi lo (some i) = .op i := rfl

@[simp] theorem decodeAnswer_none (hi lo : Byte) : decodeAnswer hi lo none = .decodeError hi lo := rfl

theorem decode_of_op {hi lo : Byte} {i : Instr} (h : decodeOp hi lo = some i) : decode hi lo = .op i := by
  rw [decode, h, decodeAnswer_some]

theorem decode_eq_op {hi lo : Byte} {i : Instr} : decode hi lo = .op i ↔ decodeOp hi lo = some i := by
  unfold decode
  cases decodeOp hi lo <;> simp

theorem decode_eq_error {hi lo hi' lo' : Byte} :
    decode hi lo = .decodeError hi' lo' ↔ decodeOp hi lo = none ∧ hi = hi' ∧ lo = lo' := by
  unfold decode
  cases decodeOp hi lo <;> simp

/-- The decoder on a word of form `cNNN`. -/
theorem decodeWord_formNNN (c : Nibble) (nnn : Addr12) :
    decodeWord (formNNN c nnn) = decode (c ++ nnn.extractLsb' 8 4) (nnn.extractLsb' 0 8) := by
  simp [decodeWord]

/-- The decoder on a word of form `cXNN`. -/
theorem decodeWord_formXNN (c x : Nibble) (nn : Byte) : decodeWord (formXNN c x nn) = decode (c ++ x) nn := by
  simp [decodeWord]

/-- The decoder on a word of form `cXYN`. -/
theorem decodeWord_formXYN (c x y n : Nibble) : decodeWord (formXYN c x y n) = decode (c ++ x) (y ++ n) := by
  simp [decodeWord]

/-! ### The sixteen classes (R77 to R92), one lemma each -/

theorem decode_class0 (x : Nibble) (lo : Byte) : decode (0x0#4 ++ x) lo = .op (decodeClass0 x lo) := by
  simp [decode, decodeOp]

theorem decode_class1 (x : Nibble) (lo : Byte) : decode (0x1#4 ++ x) lo = .op (.goto (addrField x lo)) := by
  simp [decode, decodeOp]

theorem decode_class2 (x : Nibble) (lo : Byte) : decode (0x2#4 ++ x) lo = .op (.subroutine (addrField x lo)) := by
  simp [decode, decodeOp]

theorem decode_class3 (x : Nibble) (lo : Byte) : decode (0x3#4 ++ x) lo = .op (.skipIfRegEqualConst x lo) := by
  simp [decode, decodeOp]

theorem decode_class4 (x : Nibble) (lo : Byte) : decode (0x4#4 ++ x) lo = .op (.skipIfRegNotEqualConst x lo) := by
  simp [decode, decodeOp]

theorem decode_class5 (x y n : Nibble) : decode (0x5#4 ++ x) (y ++ n) = .op (.skipIfRegEqualReg x y) := by
  simp [decode, decodeOp]

theorem decode_class6 (x : Nibble) (lo : Byte) : decode (0x6#4 ++ x) lo = .op (.setRegConst x lo) := by
  simp [decode, decodeOp]

theorem decode_class7 (x : Nibble) (lo : Byte) : decode (0x7#4 ++ x) lo = .op (.addRegConst x lo) := by
  simp [decode, decodeOp]

theorem decode_class8 (x y n : Nibble) : decode (0x8#4 ++ x) (y ++ n) =
    decodeAnswer (0x8#4 ++ x) (y ++ n) (decodeClass8 x y n) := by
  simp [decode, decodeOp]

theorem decode_class9 (x y n : Nibble) : decode (0x9#4 ++ x) (y ++ n) = .op (.skipIfRegNotEqualReg x y) := by
  simp [decode, decodeOp]

theorem decode_classA (x : Nibble) (lo : Byte) : decode (0xA#4 ++ x) lo = .op (.setIndex (addrField x lo)) := by
  simp [decode, decodeOp]

theorem decode_classB (x : Nibble) (lo : Byte) : decode (0xB#4 ++ x) lo = .op (.jumpWithOffsetV0 (addrField x lo)) := by
  simp [decode, decodeOp]

theorem decode_classC (x : Nibble) (lo : Byte) : decode (0xC#4 ++ x) lo = .op (.randMaskIntoReg x lo) := by
  simp [decode, decodeOp]

theorem decode_classD (x y n : Nibble) : decode (0xD#4 ++ x) (y ++ n) = .op (.drawSprite x y n) := by
  simp [decode, decodeOp]

theorem decode_classE (x : Nibble) (lo : Byte) : decode (0xE#4 ++ x) lo =
    decodeAnswer (0xE#4 ++ x) lo (decodeClassE x lo) := by
  simp [decode, decodeOp]

theorem decode_classF (x : Nibble) (lo : Byte) : decode (0xF#4 ++ x) lo =
    decodeAnswer (0xF#4 ++ x) lo (decodeClassF x lo) := by
  simp [decode, decodeOp]

end Sys2Proof
end

