-- ==== Sys2Proof/Laws/State.lean ====
section
/-! SUPPORT. One lemma per field per update of the state, true by rfl, and what each update does to `reg`. -/

namespace Sys2Proof.Machine

variable (s : State)

/-! ### `setReg` -/

@[simp] theorem State.setReg_regs (i : RegIndex) (v : Byte) : (s.setReg i v).regs = s.regs.set i.toNat v i.isLt := rfl
@[simp] theorem State.setReg_index (i : RegIndex) (v : Byte) : (s.setReg i v).index = s.index := rfl
@[simp] theorem State.setReg_pc (i : RegIndex) (v : Byte) : (s.setReg i v).pc = s.pc := rfl
@[simp] theorem State.setReg_stack (i : RegIndex) (v : Byte) : (s.setReg i v).stack = s.stack := rfl
@[simp] theorem State.setReg_delay (i : RegIndex) (v : Byte) : (s.setReg i v).delay = s.delay := rfl
@[simp] theorem State.setReg_sound (i : RegIndex) (v : Byte) : (s.setReg i v).sound = s.sound := rfl
@[simp] theorem State.setReg_mem (i : RegIndex) (v : Byte) : (s.setReg i v).mem = s.mem := rfl
@[simp] theorem State.setReg_randDraws (i : RegIndex) (v : Byte) : (s.setReg i v).randDraws = s.randDraws := rfl

/-! ### `setIndexReg` -/

@[simp] theorem State.setIndexReg_regs (v : Word) : (s.setIndexReg v).regs = s.regs := rfl
@[simp] theorem State.setIndexReg_index (v : Word) : (s.setIndexReg v).index = v := rfl
@[simp] theorem State.setIndexReg_pc (v : Word) : (s.setIndexReg v).pc = s.pc := rfl
@[simp] theorem State.setIndexReg_stack (v : Word) : (s.setIndexReg v).stack = s.stack := rfl
@[simp] theorem State.setIndexReg_delay (v : Word) : (s.setIndexReg v).delay = s.delay := rfl
@[simp] theorem State.setIndexReg_sound (v : Word) : (s.setIndexReg v).sound = s.sound := rfl
@[simp] theorem State.setIndexReg_mem (v : Word) : (s.setIndexReg v).mem = s.mem := rfl
@[simp] theorem State.setIndexReg_randDraws (v : Word) : (s.setIndexReg v).randDraws = s.randDraws := rfl

/-! ### `setDelay` -/

@[simp] theorem State.setDelay_regs (v : Byte) : (s.setDelay v).regs = s.regs := rfl
@[simp] theorem State.setDelay_index (v : Byte) : (s.setDelay v).index = s.index := rfl
@[simp] theorem State.setDelay_pc (v : Byte) : (s.setDelay v).pc = s.pc := rfl
@[simp] theorem State.setDelay_stack (v : Byte) : (s.setDelay v).stack = s.stack := rfl
@[simp] theorem State.setDelay_delay (v : Byte) : (s.setDelay v).delay = v := rfl
@[simp] theorem State.setDelay_sound (v : Byte) : (s.setDelay v).sound = s.sound := rfl
@[simp] theorem State.setDelay_mem (v : Byte) : (s.setDelay v).mem = s.mem := rfl
@[simp] theorem State.setDelay_randDraws (v : Byte) : (s.setDelay v).randDraws = s.randDraws := rfl

/-! ### `setSound` -/

@[simp] theorem State.setSound_regs (v : Byte) : (s.setSound v).regs = s.regs := rfl
@[simp] theorem State.setSound_index (v : Byte) : (s.setSound v).index = s.index := rfl
@[simp] theorem State.setSound_pc (v : Byte) : (s.setSound v).pc = s.pc := rfl
@[simp] theorem State.setSound_stack (v : Byte) : (s.setSound v).stack = s.stack := rfl
@[simp] theorem State.setSound_delay (v : Byte) : (s.setSound v).delay = s.delay := rfl
@[simp] theorem State.setSound_sound (v : Byte) : (s.setSound v).sound = v := rfl
@[simp] theorem State.setSound_mem (v : Byte) : (s.setSound v).mem = s.mem := rfl
@[simp] theorem State.setSound_randDraws (v : Byte) : (s.setSound v).randDraws = s.randDraws := rfl

/-! ### `setPc` -/

@[simp] theorem State.setPc_regs (v : Word) : (s.setPc v).regs = s.regs := rfl
@[simp] theorem State.setPc_index (v : Word) : (s.setPc v).index = s.index := rfl
@[simp] theorem State.setPc_pc (v : Word) : (s.setPc v).pc = v := rfl
@[simp] theorem State.setPc_stack (v : Word) : (s.setPc v).stack = s.stack := rfl
@[simp] theorem State.setPc_delay (v : Word) : (s.setPc v).delay = s.delay := rfl
@[simp] theorem State.setPc_sound (v : Word) : (s.setPc v).sound = s.sound := rfl
@[simp] theorem State.setPc_mem (v : Word) : (s.setPc v).mem = s.mem := rfl
@[simp] theorem State.setPc_randDraws (v : Word) : (s.setPc v).randDraws = s.randDraws := rfl

/-! ### `advance` -/

@[simp] theorem State.advance_regs : (s.advance).regs = s.regs := rfl
@[simp] theorem State.advance_index : (s.advance).index = s.index := rfl
@[simp] theorem State.advance_pc : (s.advance).pc = s.npc := rfl
@[simp] theorem State.advance_stack : (s.advance).stack = s.stack := rfl
@[simp] theorem State.advance_delay : (s.advance).delay = s.delay := rfl
@[simp] theorem State.advance_sound : (s.advance).sound = s.sound := rfl
@[simp] theorem State.advance_mem : (s.advance).mem = s.mem := rfl
@[simp] theorem State.advance_randDraws : (s.advance).randDraws = s.randDraws := rfl

/-! ### `push` -/

@[simp] theorem State.push_regs (v : Word) : (s.push v).regs = s.regs := rfl
@[simp] theorem State.push_index (v : Word) : (s.push v).index = s.index := rfl
@[simp] theorem State.push_pc (v : Word) : (s.push v).pc = s.pc := rfl
@[simp] theorem State.push_stack (v : Word) : (s.push v).stack = s.stack ++ [v] := rfl
@[simp] theorem State.push_delay (v : Word) : (s.push v).delay = s.delay := rfl
@[simp] theorem State.push_sound (v : Word) : (s.push v).sound = s.sound := rfl
@[simp] theorem State.push_mem (v : Word) : (s.push v).mem = s.mem := rfl
@[simp] theorem State.push_randDraws (v : Word) : (s.push v).randDraws = s.randDraws := rfl

/-! ### `writeBlock` -/

@[simp] theorem State.writeBlock_regs (a : Nat) (bs : List Byte) : (s.writeBlock a bs).regs = s.regs := rfl
@[simp] theorem State.writeBlock_index (a : Nat) (bs : List Byte) : (s.writeBlock a bs).index = s.index := rfl
@[simp] theorem State.writeBlock_pc (a : Nat) (bs : List Byte) : (s.writeBlock a bs).pc = s.pc := rfl
@[simp] theorem State.writeBlock_stack (a : Nat) (bs : List Byte) : (s.writeBlock a bs).stack = s.stack := rfl
@[simp] theorem State.writeBlock_delay (a : Nat) (bs : List Byte) : (s.writeBlock a bs).delay = s.delay := rfl
@[simp] theorem State.writeBlock_sound (a : Nat) (bs : List Byte) : (s.writeBlock a bs).sound = s.sound := rfl
@[simp] theorem State.writeBlock_mem (a : Nat) (bs : List Byte) : (s.writeBlock a bs).mem = Memory.writeBlock s.mem a bs := rfl
@[simp] theorem State.writeBlock_randDraws (a : Nat) (bs : List Byte) : (s.writeBlock a bs).randDraws = s.randDraws := rfl

/-! ### `consumeRand` -/

@[simp] theorem State.consumeRand_regs : (s.consumeRand).regs = s.regs := rfl
@[simp] theorem State.consumeRand_index : (s.consumeRand).index = s.index := rfl
@[simp] theorem State.consumeRand_pc : (s.consumeRand).pc = s.pc := rfl
@[simp] theorem State.consumeRand_stack : (s.consumeRand).stack = s.stack := rfl
@[simp] theorem State.consumeRand_delay : (s.consumeRand).delay = s.delay := rfl
@[simp] theorem State.consumeRand_sound : (s.consumeRand).sound = s.sound := rfl
@[simp] theorem State.consumeRand_mem : (s.consumeRand).mem = s.mem := rfl
@[simp] theorem State.consumeRand_randDraws : (s.consumeRand).randDraws = s.randDraws + 1 := rfl

/-! ### `setFlagAndResult` and `loadBlock`: only the register file changes -/

@[simp] theorem State.setFlagAndResult_index (x : RegIndex) (f v : Byte) : (s.setFlagAndResult x f v).index = s.index := rfl
@[simp] theorem State.setFlagAndResult_pc (x : RegIndex) (f v : Byte) : (s.setFlagAndResult x f v).pc = s.pc := rfl
@[simp] theorem State.setFlagAndResult_stack (x : RegIndex) (f v : Byte) : (s.setFlagAndResult x f v).stack = s.stack := rfl
@[simp] theorem State.setFlagAndResult_delay (x : RegIndex) (f v : Byte) : (s.setFlagAndResult x f v).delay = s.delay := rfl
@[simp] theorem State.setFlagAndResult_sound (x : RegIndex) (f v : Byte) : (s.setFlagAndResult x f v).sound = s.sound := rfl
@[simp] theorem State.setFlagAndResult_mem (x : RegIndex) (f v : Byte) : (s.setFlagAndResult x f v).mem = s.mem := rfl
@[simp] theorem State.setFlagAndResult_randDraws (x : RegIndex) (f v : Byte) : (s.setFlagAndResult x f v).randDraws = s.randDraws := rfl

@[simp] theorem State.loadBlock_index (x : RegIndex) : (s.loadBlock x).index = s.index := rfl
@[simp] theorem State.loadBlock_pc (x : RegIndex) : (s.loadBlock x).pc = s.pc := rfl
@[simp] theorem State.loadBlock_stack (x : RegIndex) : (s.loadBlock x).stack = s.stack := rfl
@[simp] theorem State.loadBlock_delay (x : RegIndex) : (s.loadBlock x).delay = s.delay := rfl
@[simp] theorem State.loadBlock_sound (x : RegIndex) : (s.loadBlock x).sound = s.sound := rfl
@[simp] theorem State.loadBlock_mem (x : RegIndex) : (s.loadBlock x).mem = s.mem := rfl
@[simp] theorem State.loadBlock_randDraws (x : RegIndex) : (s.loadBlock x).randDraws = s.randDraws := rfl

/-! ### `skipIf`: only `pc` changes -/

@[simp] theorem State.skipIf_regs (c : Bool) : (s.skipIf c).regs = s.regs := by cases c <;> rfl
@[simp] theorem State.skipIf_index (c : Bool) : (s.skipIf c).index = s.index := by cases c <;> rfl
@[simp] theorem State.skipIf_stack (c : Bool) : (s.skipIf c).stack = s.stack := by cases c <;> rfl
@[simp] theorem State.skipIf_delay (c : Bool) : (s.skipIf c).delay = s.delay := by cases c <;> rfl
@[simp] theorem State.skipIf_sound (c : Bool) : (s.skipIf c).sound = s.sound := by cases c <;> rfl
@[simp] theorem State.skipIf_mem (c : Bool) : (s.skipIf c).mem = s.mem := by cases c <;> rfl
@[simp] theorem State.skipIf_randDraws (c : Bool) : (s.skipIf c).randDraws = s.randDraws := by cases c <;> rfl
@[simp] theorem State.skipIf_pc (c : Bool) : (s.skipIf c).pc = if c then s.pc + 4#16 else s.pc + 2#16 := by
  cases c
  · rfl
  · simp [State.skipIf, State.npc, BitVec.add_assoc]

/-! ### Reading a register -/

/-- A write to `x[i]` changes `x[i]` and no other register (R20). -/
@[simp] theorem State.reg_setReg (i j : RegIndex) (v : Byte) :
    (s.setReg i v).reg j = if j = i then v else s.reg j := by
  simp only [State.reg, State.setReg, Vector.getElem_set, BitVec.toNat_eq, eq_comm]

/-- The flag, then the result (R121). -/
@[simp] theorem State.reg_setFlagAndResult (x j : RegIndex) (f v : Byte) :
    (s.setFlagAndResult x f v).reg j = if j = x then v else if j = flagReg then f else s.reg j := by
  simp only [State.setFlagAndResult, State.reg_setReg]

@[simp] theorem State.reg_setIndexReg (v : Word) (j : RegIndex) : (s.setIndexReg v).reg j = s.reg j := rfl
@[simp] theorem State.reg_setDelay (v : Byte) (j : RegIndex) : (s.setDelay v).reg j = s.reg j := rfl
@[simp] theorem State.reg_setSound (v : Byte) (j : RegIndex) : (s.setSound v).reg j = s.reg j := rfl
@[simp] theorem State.reg_setPc (v : Word) (j : RegIndex) : (s.setPc v).reg j = s.reg j := rfl
@[simp] theorem State.reg_advance (j : RegIndex) : s.advance.reg j = s.reg j := rfl
@[simp] theorem State.reg_push (v : Word) (j : RegIndex) : (s.push v).reg j = s.reg j := rfl
@[simp] theorem State.reg_writeBlock (a : Nat) (bs : List Byte) (j : RegIndex) :
    (s.writeBlock a bs).reg j = s.reg j := rfl
@[simp] theorem State.reg_consumeRand (j : RegIndex) : s.consumeRand.reg j = s.reg j := rfl
@[simp] theorem State.reg_skipIf (c : Bool) (j : RegIndex) : (s.skipIf c).reg j = s.reg j := by cases c <;> rfl

/-- LoadRegisters: `x[j]` for `j` up to X is the byte at `I + j`; the others keep their values (R163). -/
@[simp] theorem State.reg_loadBlock (x j : RegIndex) :
    (s.loadBlock x).reg j = if j.toNat ≤ x.toNat then s.readMem (s.blockBase + j.toNat) else s.reg j := by
  simp [State.reg, State.loadBlock]

/-- Two register files that read alike are equal. -/
theorem regs_ext {s t : State} (h : ∀ j, t.reg j = s.reg j) : t.regs = s.regs := by
  apply Vector.ext
  intro i hi
  have := h (BitVec.ofNat 4 i)
  simpa [State.reg, Nat.mod_eq_of_lt hi] using this

/-- Every register reads zero after reset (R40). -/
@[simp] theorem State.reg_reset (j : RegIndex) : State.reset.reg j = 0#8 := by
  simp [State.reg, State.reset]

end Sys2Proof.Machine
end

