-- ==== Sys2Proof/Laws/Memory.lean ====
section
/-! SUPPORT. The laws of memory: read after write, blocks of bytes, and the canonical form kept by every operation. -/

namespace Sys2Proof.Machine

namespace Memory

variable (m : Memory)

/-! ### One byte -/

theorem stored_write (a b : Nat) (v : Byte) :
    stored (write m a v) b = if b = a then some v else stored m b := by
  induction m with
  | nil => simp [write, stored, eq_comm]
  | cons c m ih =>
    obtain ⟨k, w⟩ := c
    rcases Nat.lt_trichotomy a k with h | rfl | h
    · by_cases hb : b = a
      · simp [write, stored, h, hb]
      · simp [write, stored, h, hb, Ne.symm hb]
    · by_cases hb : b = a
      · simp [write, stored, hb]
      · simp [write, stored, hb, Ne.symm hb]
    · have h1 : ¬ a < k := by omega
      have h2 : a ≠ k := by omega
      by_cases hb : k = b
      · subst hb; simp [write, stored, h1, h2, Ne.symm h2]
      · simp [write, stored, h1, h2, hb, ih]

/-- Read after write: the byte written at its address, every other byte as before (R57). -/
theorem read_write (a b : Nat) (v : Byte) :
    read (write m a v) b = if b = a then v else read m b := by
  by_cases h : b = a <;> simp [read, stored_write, h]

/-! ### Blocks -/

theorem read_writeBlock_outside (bs : List Byte) (base a : Nat) (h : a < base ∨ base + bs.length ≤ a) :
    read (writeBlock m base bs) a = read m a := by
  induction bs generalizing m base with
  | nil => rfl
  | cons b bs ih =>
    simp only [List.length_cons] at h
    rw [writeBlock, ih _ _ (by omega), read_write, if_neg (by omega)]

theorem read_writeBlock_inside (bs : List Byte) (base k : Nat) (h : k < bs.length) :
    read (writeBlock m base bs) (base + k) = bs[k] := by
  induction bs generalizing m base k with
  | nil => simp at h
  | cons b bs ih =>
    cases k with
    | zero => rw [writeBlock, read_writeBlock_outside _ _ _ _ (by omega)]; simp [read_write]
    | succ k =>
      have := ih (write m base b) (base + 1) k (by simpa using h)
      rw [writeBlock, show base + (k + 1) = base + 1 + k by omega, this]
      simp

/-! ### The canonical form -/

theorem risesFrom_mono {lo lo' : Nat} (h : lo ≤ lo') (hm : risesFrom lo' m = true) : risesFrom lo m = true := by
  cases m with
  | nil => rfl
  | cons c m => simp only [risesFrom, Bool.and_eq_true, decide_eq_true_eq] at *; exact ⟨⟨by omega, hm.1.2⟩, hm.2⟩

theorem risesFrom_write (lo a : Nat) (v : Byte) (hlo : lo ≤ a) (ha : a < memorySize)
    (hm : risesFrom lo m = true) : risesFrom lo (write m a v) = true := by
  induction m generalizing lo with
  | nil => simp [write, risesFrom, hlo, ha]
  | cons c m ih =>
    obtain ⟨k, w⟩ := c
    simp only [risesFrom, Bool.and_eq_true, decide_eq_true_eq] at hm
    rcases Nat.lt_trichotomy a k with h | rfl | h
    · simp only [write, h, if_true, risesFrom, Bool.and_eq_true, decide_eq_true_eq]
      exact ⟨⟨hlo, ha⟩, ⟨by omega, hm.1.2⟩, hm.2⟩
    · simp [write, risesFrom, hlo, ha, hm.2]
    · have h1 : ¬ a < k := by omega
      have h2 : a ≠ k := by omega
      simp only [write, h1, h2, if_false, risesFrom, Bool.and_eq_true, decide_eq_true_eq]
      exact ⟨hm.1, ih (k + 1) (by omega) hm.2⟩

/-- A write inside memory keeps the canonical form. -/
theorem wf_write (a : Nat) (v : Byte) (ha : a < memorySize) (hm : wf m = true) : wf (write m a v) = true :=
  risesFrom_write m 0 a v (Nat.zero_le _) ha hm

/-- A block written inside memory keeps the canonical form. -/
theorem wf_writeBlock (bs : List Byte) (base : Nat) (h : base + bs.length ≤ memorySize) (hm : wf m = true) :
    wf (writeBlock m base bs) = true := by
  induction bs generalizing m base with
  | nil => exact hm
  | cons b bs ih =>
    simp only [List.length_cons] at h
    exact ih _ _ (by omega) (wf_write m base b (by omega) hm)

theorem stored_eq_none_of_lt (lo a : Nat) (h : a < lo) (hm : risesFrom lo m = true) : stored m a = none := by
  induction m generalizing lo with
  | nil => rfl
  | cons c m ih =>
    simp only [risesFrom, Bool.and_eq_true, decide_eq_true_eq] at hm
    rw [stored, if_neg (by omega)]
    exact ih (c.1 + 1) (by omega) hm.2

end Memory

/-! ### Memory through the state -/

@[simp] theorem State.readMem_setReg (s : State) (i : RegIndex) (v : Byte) (a : Nat) :
    (s.setReg i v).readMem a = s.readMem a := rfl
@[simp] theorem State.readMem_setPc (s : State) (v : Word) (a : Nat) : (s.setPc v).readMem a = s.readMem a := rfl
@[simp] theorem State.readMem_advance (s : State) (a : Nat) : s.advance.readMem a = s.readMem a := rfl

theorem State.readMem_writeBlock_outside (s : State) (bs : List Byte) (base a : Nat)
    (h : a < base ∨ base + bs.length ≤ a) : (s.writeBlock base bs).readMem a = s.readMem a :=
  Memory.read_writeBlock_outside s.mem bs base a h

theorem State.readMem_writeBlock_inside (s : State) (bs : List Byte) (base k : Nat) (h : k < bs.length) :
    (s.writeBlock base bs).readMem (base + k) = bs[k] :=
  Memory.read_writeBlock_inside s.mem bs base k h

/-- DumpRegisters moves `X + 1` bytes (R62). -/
@[simp] theorem State.length_blockRegs (s : State) (x : RegIndex) : (s.blockRegs x).length = x.toNat + 1 := by
  have := x.isLt
  simp [State.blockRegs]; omega

/-- The k-th byte DumpRegisters stores is `x[k]` (R162). -/
theorem State.getElem_blockRegs (s : State) (x j : RegIndex) (h : j.toNat < (s.blockRegs x).length) :
    (s.blockRegs x)[j.toNat] = s.reg j := by
  simp [State.blockRegs, State.reg]

/-! ### The host's image -/

theorem cellsFrom_risesFrom (a : Nat) (bs : List Byte) (h : a + bs.length ≤ memorySize) :
    Memory.risesFrom a (cellsFrom a bs) = true := by
  induction bs generalizing a with
  | nil => rfl
  | cons b bs ih =>
    simp only [List.length_cons] at h
    simp only [cellsFrom, Memory.risesFrom, Bool.and_eq_true, decide_eq_true_eq]
    exact ⟨⟨Nat.le_refl _, by omega⟩, ih (a + 1) (by omega)⟩

theorem stored_cellsFrom (a k : Nat) (bs : List Byte) (h : k < bs.length) :
    Memory.stored (cellsFrom a bs) (a + k) = some bs[k] := by
  induction bs generalizing a k with
  | nil => simp at h
  | cons b bs ih =>
    cases k with
    | zero => simp [cellsFrom, Memory.stored]
    | succ k =>
      rw [cellsFrom, Memory.stored, if_neg (by omega), show a + (k + 1) = a + 1 + k by omega,
        ih (a + 1) k (by simpa using h)]
      simp

end Sys2Proof.Machine
end

