-- ==== Sys2Proof/Laws/PerInstr.lean ====
section
/-! SUPPORT. The per-instruction family `RoundTrip`: the decoder reads each well-formed instruction back from its
canonical word (R102), one lemma per constructor. -/

namespace Sys2Proof.Laws

/-- Decoding the canonical word of a well-formed instruction gives it back. -/
def RoundTrip.Statement (i : Instr) : Prop := i.wellFormed = true → decodeWord (encode i) = .op i

theorem RoundTrip.clearScreen : RoundTrip.Statement .clearScreen := fun _ => by decide

theorem RoundTrip.ret : RoundTrip.Statement .ret := fun _ => by decide

theorem RoundTrip.nativeCall (nnn : Addr12) : RoundTrip.Statement (.nativeCall nnn) := by
  intro h
  simp only [Instr.wellFormed, nativeCallAddrOk, Bool.and_eq_true, bne_iff_ne, ne_eq] at h
  rw [encode, decodeWord_formNNN, decode_class0, decodeClass0, if_neg h.1, if_neg h.2, addrField_split]

theorem RoundTrip.goto (nnn : Addr12) : RoundTrip.Statement (.goto nnn) := by
  intro _
  rw [encode, decodeWord_formNNN, decode_class1, addrField_split]

theorem RoundTrip.subroutine (nnn : Addr12) : RoundTrip.Statement (.subroutine nnn) := by
  intro _
  rw [encode, decodeWord_formNNN, decode_class2, addrField_split]

theorem RoundTrip.skipIfRegEqualConst (x : RegIndex) (nn : Byte) : RoundTrip.Statement (.skipIfRegEqualConst x nn) := by
  intro _
  rw [encode, decodeWord_formXNN, decode_class3]

theorem RoundTrip.skipIfRegNotEqualConst (x : RegIndex) (nn : Byte) : RoundTrip.Statement (.skipIfRegNotEqualConst x nn) := by
  intro _
  rw [encode, decodeWord_formXNN, decode_class4]

theorem RoundTrip.skipIfRegEqualReg (x : RegIndex) (y : RegIndex) : RoundTrip.Statement (.skipIfRegEqualReg x y) := by
  intro _
  rw [encode, decodeWord_formXYN, decode_class5]

theorem RoundTrip.setRegConst (x : RegIndex) (nn : Byte) : RoundTrip.Statement (.setRegConst x nn) := by
  intro _
  rw [encode, decodeWord_formXNN, decode_class6]

theorem RoundTrip.addRegConst (x : RegIndex) (nn : Byte) : RoundTrip.Statement (.addRegConst x nn) := by
  intro _
  rw [encode, decodeWord_formXNN, decode_class7]

theorem RoundTrip.mov (x : RegIndex) (y : RegIndex) : RoundTrip.Statement (.mov x y) := by
  intro _
  rw [encode, decodeWord_formXYN, decode_class8]
  rfl

theorem RoundTrip.or (x : RegIndex) (y : RegIndex) : RoundTrip.Statement (.or x y) := by
  intro _
  rw [encode, decodeWord_formXYN, decode_class8]
  rfl

theorem RoundTrip.and (x : RegIndex) (y : RegIndex) : RoundTrip.Statement (.and x y) := by
  intro _
  rw [encode, decodeWord_formXYN, decode_class8]
  rfl

theorem RoundTrip.xor (x : RegIndex) (y : RegIndex) : RoundTrip.Statement (.xor x y) := by
  intro _
  rw [encode, decodeWord_formXYN, decode_class8]
  rfl

theorem RoundTrip.add (x : RegIndex) (y : RegIndex) : RoundTrip.Statement (.add x y) := by
  intro _
  rw [encode, decodeWord_formXYN, decode_class8]
  rfl

theorem RoundTrip.sub (x : RegIndex) (y : RegIndex) : RoundTrip.Statement (.sub x y) := by
  intro _
  rw [encode, decodeWord_formXYN, decode_class8]
  rfl

theorem RoundTrip.shiftRight (x : RegIndex) : RoundTrip.Statement (.shiftRight x) := by
  intro _
  rw [encode, decodeWord_formXYN, decode_class8]
  rfl

theorem RoundTrip.reverseSub (x : RegIndex) (y : RegIndex) : RoundTrip.Statement (.reverseSub x y) := by
  intro _
  rw [encode, decodeWord_formXYN, decode_class8]
  rfl

theorem RoundTrip.shiftLeft (x : RegIndex) : RoundTrip.Statement (.shiftLeft x) := by
  intro _
  rw [encode, decodeWord_formXYN, decode_class8]
  rfl

theorem RoundTrip.skipIfRegNotEqualReg (x : RegIndex) (y : RegIndex) : RoundTrip.Statement (.skipIfRegNotEqualReg x y) := by
  intro _
  rw [encode, decodeWord_formXYN, decode_class9]

theorem RoundTrip.setIndex (nnn : Addr12) : RoundTrip.Statement (.setIndex nnn) := by
  intro _
  rw [encode, decodeWord_formNNN, decode_classA, addrField_split]

theorem RoundTrip.jumpWithOffsetV0 (nnn : Addr12) : RoundTrip.Statement (.jumpWithOffsetV0 nnn) := by
  intro _
  rw [encode, decodeWord_formNNN, decode_classB, addrField_split]

theorem RoundTrip.randMaskIntoReg (x : RegIndex) (nn : Byte) : RoundTrip.Statement (.randMaskIntoReg x nn) := by
  intro _
  rw [encode, decodeWord_formXNN, decode_classC]

theorem RoundTrip.drawSprite (x : RegIndex) (y : RegIndex) (n : Nibble) : RoundTrip.Statement (.drawSprite x y n) := by
  intro _
  rw [encode, decodeWord_formXYN, decode_classD]

theorem RoundTrip.skipIfKeyPressed (x : RegIndex) : RoundTrip.Statement (.skipIfKeyPressed x) := by
  intro _
  rw [encode, decodeWord_formXNN, decode_classE]
  rfl

theorem RoundTrip.skipIfKeyNotPressed (x : RegIndex) : RoundTrip.Statement (.skipIfKeyNotPressed x) := by
  intro _
  rw [encode, decodeWord_formXNN, decode_classE]
  rfl

theorem RoundTrip.getDelayTimer (x : RegIndex) : RoundTrip.Statement (.getDelayTimer x) := by
  intro _
  rw [encode, decodeWord_formXNN, decode_classF]
  rfl

theorem RoundTrip.awaitKeyIntoReg (x : RegIndex) : RoundTrip.Statement (.awaitKeyIntoReg x) := by
  intro _
  rw [encode, decodeWord_formXNN, decode_classF]
  rfl

theorem RoundTrip.setDelayTimer (x : RegIndex) : RoundTrip.Statement (.setDelayTimer x) := by
  intro _
  rw [encode, decodeWord_formXNN, decode_classF]
  rfl

theorem RoundTrip.setSoundTimer (x : RegIndex) : RoundTrip.Statement (.setSoundTimer x) := by
  intro _
  rw [encode, decodeWord_formXNN, decode_classF]
  rfl

theorem RoundTrip.addRegToIndex (x : RegIndex) : RoundTrip.Statement (.addRegToIndex x) := by
  intro _
  rw [encode, decodeWord_formXNN, decode_classF]
  rfl

theorem RoundTrip.setIndexToGlyph (x : RegIndex) : RoundTrip.Statement (.setIndexToGlyph x) := by
  intro _
  rw [encode, decodeWord_formXNN, decode_classF]
  rfl

theorem RoundTrip.storeDecimalDigits (x : RegIndex) : RoundTrip.Statement (.storeDecimalDigits x) := by
  intro _
  rw [encode, decodeWord_formXNN, decode_classF]
  rfl

theorem RoundTrip.dumpRegisters (x : RegIndex) : RoundTrip.Statement (.dumpRegisters x) := by
  intro _
  rw [encode, decodeWord_formXNN, decode_classF]
  rfl

theorem RoundTrip.loadRegisters (x : RegIndex) : RoundTrip.Statement (.loadRegisters x) := by
  intro _
  rw [encode, decodeWord_formXNN, decode_classF]
  rfl

end Sys2Proof.Laws
end

