-- ==== Sys2Proof/Laws/Step.lean ====
section
/-! SUPPORT. What the shared operations and the step can do, said once, for the provers to cite. -/

namespace Sys2Proof.Machine

/-! ### Stack -/

/-- `pop` of a stack with a top. -/
theorem State.pop_concat (s : State) (rest : List Word) (v : Word) (h : s.stack = rest ++ [v]) :
    s.pop = some (v, { s with stack := rest }) := by
  simp [State.pop, h]

/-- `pop` of an empty stack. -/
theorem State.pop_nil (s : State) (h : s.stack = []) : s.pop = none := by
  simp [State.pop, h]

/-- A stack is empty or has a top. -/
theorem stack_cases (l : List Word) : l = [] ∨ ∃ rest v, l = rest ++ [v] := by
  rcases List.eq_nil_or_concat l with h | ⟨rest, v, h⟩
  · exact .inl h
  · exact .inr ⟨rest, v, by simpa using h⟩

/-! ### The meanings that can fault, by their outcome -/

/-- Subroutine pushes and jumps below the capacity, and faults at it. -/
theorem execSubroutine_cases (nnn : Addr12) (s : State) :
    (s.depth < stackCapacity ∧ execSubroutine nnn s = .next ((s.push s.npc).setPc (addrOperand nnn))) ∨
    (stackCapacity ≤ s.depth ∧ execSubroutine nnn s = .fault .stackOverflow) := by
  by_cases h : s.depth < stackCapacity
  · exact .inl ⟨h, by simp [execSubroutine, h]⟩
  · exact .inr ⟨by omega, by simp [execSubroutine, h, raise]⟩

/-- Return takes the top into `pc`, and faults without one. -/
theorem execRet_cases (s : State) :
    (∃ rest v, s.stack = rest ++ [v] ∧ execRet s = .next { s with pc := v, stack := rest }) ∨
    (s.stack = [] ∧ execRet s = .fault .stackUnderflow) := by
  rcases stack_cases s.stack with h | ⟨rest, v, h⟩
  · exact .inr ⟨h, by simp [execRet, State.pop_nil s h, raise]⟩
  · exact .inl ⟨rest, v, h, by rw [execRet, State.pop_concat s rest v h]; rfl⟩

/-- DumpRegisters stores its block inside memory, and faults outside. -/
theorem execDumpRegisters_cases (x : RegIndex) (s : State) :
    (s.index.toNat + x.toNat ≤ 4095 ∧
      execDumpRegisters x s = .next (s.writeBlock s.blockBase (s.blockRegs x)).advance) ∨
    (4095 < s.index.toNat + x.toNat ∧
      execDumpRegisters x s = .fault (.memoryOutOfBounds (max s.index.toNat 4096) .data)) := by
  by_cases h : s.index.toNat + x.toNat ≤ 4095
  · exact .inl ⟨h, by simp [execDumpRegisters, State.blockInBounds, inBounds, State.blockBase, h]⟩
  · exact .inr ⟨by omega, by
      simp [execDumpRegisters, State.blockInBounds, inBounds, State.blockBase, h, raise, outOfBounds, memorySize]⟩

/-- LoadRegisters loads its block from inside memory, and faults outside. -/
theorem execLoadRegisters_cases (x : RegIndex) (s : State) :
    (s.index.toNat + x.toNat ≤ 4095 ∧ execLoadRegisters x s = .next (s.loadBlock x).advance) ∨
    (4095 < s.index.toNat + x.toNat ∧
      execLoadRegisters x s = .fault (.memoryOutOfBounds (max s.index.toNat 4096) .data)) := by
  by_cases h : s.index.toNat + x.toNat ≤ 4095
  · exact .inl ⟨h, by simp [execLoadRegisters, State.blockInBounds, inBounds, State.blockBase, h]⟩
  · exact .inr ⟨by omega, by
      simp [execLoadRegisters, State.blockInBounds, inBounds, State.blockBase, h, raise, outOfBounds, memorySize]⟩

/-! ### The step -/

/-- The three ways a step goes (R110, R118): the fetch faults, the decoder refuses the word, or an operation runs. -/
theorem step_cases (s : State) :
    (0xFFE < s.pc.toNat ∧ step s = .fault (.memoryOutOfBounds (max s.pc.toNat 4096) .fetch)) ∨
    (s.canFetch ∧ decodeOp s.nextHi s.nextLo = none ∧ step s = .fault (.decodeError s.nextHi s.nextLo)) ∨
    (∃ i, s.fetches i ∧ step s = exec i s) := by
  by_cases h : s.pc.toNat ≤ 0xFFE
  · have hf : s.fetch = .ok (s.nextHi, s.nextLo) := by
      have : s.pc.toNat + 1 ≤ 4095 := by omega
      simp [State.fetch, inBounds, this, State.nextHi, State.nextLo]
    cases hd : decodeOp s.nextHi s.nextLo with
    | none => exact .inr (.inl ⟨h, rfl, by simp [step, hf, decode, hd, raise]⟩)
    | some i => exact .inr (.inr ⟨i, ⟨h, by simp [decode, hd]⟩, by simp [step, hf, decode, hd]⟩)
  · have : ¬ s.pc.toNat + 1 ≤ 4095 := by omega
    exact .inl ⟨by omega, by simp [step, State.fetch, inBounds, this, raise, outOfBounds, memorySize]⟩

/-- Which operation is fetched is unique. -/
theorem State.fetches_unique {s : State} {i j : Instr} (hi : s.fetches i) (hj : s.fetches j) : i = j := by
  have := hi.2.symm.trans hj.2
  simpa using this

end Sys2Proof.Machine
end

