-- ==== Sys2Proof/Tests/Slice0.lean ====
section
/-! SUPPORT. The model's own tests: the decoder on words written out from `30_encoding.md` and
`95_test_vectors.md` section 2, one step per instruction with the expected values of `95_test_vectors.md`
sections 1 and 3, and for every statement with hypotheses a concrete state that meets them. -/

namespace Sys2Proof.Tests

open Sys2Proof.Machine

/-! ### Helpers -/

/-- The state after reset with `pc` and some registers set. -/
def start (pc : Word) (rs : List (RegIndex × Byte)) : State :=
  rs.foldl (fun s r => s.setReg r.1 r.2) { State.reset with pc := pc }

/-- The outcome is a next state with a property. -/
def goesTo (o : StepResult) (p : State → Bool) : Bool :=
  match o with
  | .next t => p t
  | _ => false

/-- The outcome is this fault. -/
def stops (o : StepResult) (f : Fault) : Bool :=
  match o with
  | .fault g => decide (g = f)
  | _ => false

/-- One step with the word `w` placed at `pc`. -/
def stepWord (w : Nat) (s : State) : StepResult := step (s.withFetchWord 16 w)

/-! ### WellFormed refuses ill-formed terms (R102) -/

theorem test_wf_refuses_nativeCall_0E0 : (Instr.nativeCall 0x0E0).wellFormed = false := by decide
theorem test_wf_refuses_nativeCall_FEE : (Instr.nativeCall 0xFEE).wellFormed = false := by decide
theorem test_wf_accepts_nativeCall_0E1 : (Instr.nativeCall 0x0E1).wellFormed = true := by decide

/-! ### Decoding: one word of every operation (`95_test_vectors.md` section 2.1, and section 1, S1 to S4) -/

theorem test_decode_class_0 :
    decodeWord 0x00E0 = .op .clearScreen ∧ decodeWord 0x00EE = .op .ret ∧
    decodeWord 0x0123 = .op (.nativeCall 0x123) := by decide

theorem test_decode_class_1 :
    decode 0x12 0x34 = .op (.goto 0x234) ∧ decodeWord 0x1ABC = .op (.goto 0xABC) := by decide
theorem test_decode_class_2 : decodeWord 0x2FFF = .op (.subroutine 0xFFF) := by decide
theorem test_decode_class_3 : decodeWord 0x3A42 = .op (.skipIfRegEqualConst 10 0x42) := by decide
theorem test_decode_class_4 : decodeWord 0x4B00 = .op (.skipIfRegNotEqualConst 11 0x00) := by decide
theorem test_decode_class_5 : decodeWord 0x5120 = .op (.skipIfRegEqualReg 1 2) := by decide
theorem test_decode_class_6 : decodeWord 0x6CFF = .op (.setRegConst 12 0xFF) := by decide
theorem test_decode_class_7 : decodeWord 0x7D01 = .op (.addRegConst 13 0x01) := by decide

theorem test_decode_class_8_logic :
    decodeWord 0x8EF0 = .op (.mov 14 15) ∧ decodeWord 0x8011 = .op (.or 0 1) ∧
    decodeWord 0x8232 = .op (.and 2 3) ∧ decodeWord 0x8453 = .op (.xor 4 5) := by decide

theorem test_decode_class_8_arithmetic :
    decodeWord 0x8674 = .op (.add 6 7) ∧ decodeWord 0x8895 = .op (.sub 8 9) ∧
    decodeWord 0x8A06 = .op (.shiftRight 10) ∧ decodeWord 0x8BC7 = .op (.reverseSub 11 12) ∧
    decodeWord 0x8D0E = .op (.shiftLeft 13) ∧ decode 0x81 0x26 = .op (.shiftRight 1) := by decide

theorem test_decode_class_9 : decodeWord 0x9EF0 = .op (.skipIfRegNotEqualReg 14 15) := by decide
theorem test_decode_class_A : decodeWord 0xA000 = .op (.setIndex 0x000) := by decide
theorem test_decode_class_B : decodeWord 0xBFFF = .op (.jumpWithOffsetV0 0xFFF) := by decide
theorem test_decode_class_C : decodeWord 0xC10F = .op (.randMaskIntoReg 1 0x0F) := by decide
theorem test_decode_class_D : decodeWord 0xD125 = .op (.drawSprite 1 2 5) := by decide

theorem test_decode_class_E :
    decodeWord 0xE39E = .op (.skipIfKeyPressed 3) ∧ decodeWord 0xE3A1 = .op (.skipIfKeyNotPressed 3) := by decide

theorem test_decode_class_F_timers_and_key :
    decodeWord 0xF407 = .op (.getDelayTimer 4) ∧ decodeWord 0xF50A = .op (.awaitKeyIntoReg 5) ∧
    decodeWord 0xF615 = .op (.setDelayTimer 6) ∧ decodeWord 0xF718 = .op (.setSoundTimer 7) := by decide

theorem test_decode_class_F_index_and_memory :
    decodeWord 0xF81E = .op (.addRegToIndex 8) ∧ decodeWord 0xF929 = .op (.setIndexToGlyph 9) ∧
    decodeWord 0xFA33 = .op (.storeDecimalDigits 10) ∧ decodeWord 0xFB55 = .op (.dumpRegisters 11) ∧
    decodeWord 0xFC65 = .op (.loadRegisters 12) := by decide

/-- One word of every family, written out bit by bit from its format (R74). -/
theorem test_decode_words_bit_by_bit :
    decodeWord 0b1000_0110_0111_0100 = .op (.add 6 7) ∧
    decodeWord 0b0001_1010_1011_1100 = .op (.goto 0xABC) ∧
    decodeWord 0b1111_1011_0101_0101 = .op (.dumpRegisters 11) ∧
    decodeWord 0b1100_0001_0000_1111 = .op (.randMaskIntoReg 1 0x0F) ∧
    decodeWord 0b1101_0001_0010_0101 = .op (.drawSprite 1 2 5) ∧
    decodeWord 0b0000_0001_0010_0011 = .op (.nativeCall 0x123) := by decide

/-- Alias words (`95_test_vectors.md` section 2.2). -/
theorem test_decode_alias_words :
    decodeWord 0x01E0 = .op .clearScreen ∧ decodeWord 0x0FEE = .op .ret ∧
    decodeWord 0x512F = .op (.skipIfRegEqualReg 1 2) ∧ decodeWord 0x9121 = .op (.skipIfRegNotEqualReg 1 2) ∧
    decodeWord 0x81F6 = .op (.shiftRight 1) ∧ decodeWord 0x812E = .op (.shiftLeft 1) := by decide

/-- Illegal words (`95_test_vectors.md` section 2.2). -/
theorem test_decode_illegal_words :
    decodeWord 0x8128 = .decodeError 0x81 0x28 ∧ decodeWord 0x812D = .decodeError 0x81 0x2D ∧
    decodeWord 0x812F = .decodeError 0x81 0x2F ∧ decodeWord 0xE09D = .decodeError 0xE0 0x9D ∧
    decodeWord 0xE0A2 = .decodeError 0xE0 0xA2 ∧ decodeWord 0xF000 = .decodeError 0xF0 0x00 ∧
    decodeWord 0xF075 = .decodeError 0xF0 0x75 ∧ decodeWord 0xF0FF = .decodeError 0xF0 0xFF := by decide

/-- The host's numbering: the first byte of an instruction word is `w[15:8]` (R70, log entry 17). -/
theorem test_decodeTableWord : decodeTableWord 16 0x8674 = some (.add 6 7) := by decide

/-! ### One step per instruction (`95_test_vectors.md` sections 1 and 3) -/

theorem test_add_carry :
    goesTo (stepWord 0x8124 (start 0x200 [(1, 0xC8), (2, 0x64)])) fun t =>
      t.reg 1 == 0x2C && t.reg 15 == 1 && t.pc == 0x202 := by decide
theorem test_add_result_wins :
    goesTo (stepWord 0x8F14 (start 0x200 [(15, 0xF0), (1, 0x20)])) fun t => t.reg 15 == 0x10 := by decide
theorem test_sub_borrow :
    goesTo (stepWord 0x8125 (start 0x200 [(1, 0x10), (2, 0x20)])) fun t =>
      t.reg 1 == 0xF0 && t.reg 15 == 0 := by decide
theorem test_sub_equal :
    goesTo (stepWord 0x8125 (start 0x200 [(1, 0x07), (2, 0x07)])) fun t =>
      t.reg 1 == 0x00 && t.reg 15 == 1 := by decide
theorem test_reverseSub_no_borrow :
    goesTo (stepWord 0x8127 (start 0x200 [(1, 0x10), (2, 0x20)])) fun t =>
      t.reg 1 == 0x10 && t.reg 15 == 1 := by decide
theorem test_reverseSub_borrow :
    goesTo (stepWord 0x8127 (start 0x200 [(1, 0x20), (2, 0x10)])) fun t =>
      t.reg 1 == 0xF0 && t.reg 15 == 0 := by decide
theorem test_mov :
    goesTo (stepWord 0x8120 (start 0x200 [(1, 0x01), (2, 0x5A), (15, 0x09)])) fun t =>
      t.reg 1 == 0x5A && t.reg 2 == 0x5A && t.reg 15 == 0x09 := by decide
theorem test_or_keeps_flag :
    goesTo (stepWord 0x8121 (start 0x200 [(1, 0xF0), (2, 0x0F), (15, 0x01)])) fun t =>
      t.reg 1 == 0xFF && t.reg 15 == 1 := by decide
theorem test_and :
    goesTo (stepWord 0x8122 (start 0x200 [(1, 0xF0), (2, 0x3C)])) fun t =>
      t.reg 1 == 0x30 && t.reg 2 == 0x3C := by decide
theorem test_xor :
    goesTo (stepWord 0x8123 (start 0x200 [(1, 0xF0), (2, 0x3C)])) fun t =>
      t.reg 1 == 0xCC && t.reg 2 == 0x3C := by decide
theorem test_shiftRight :
    goesTo (stepWord 0x8126 (start 0x200 [(1, 0x05)])) fun t =>
      t.reg 1 == 0x02 && t.reg 15 == 1 && t.pc == 0x202 := by decide
theorem test_shiftRight_zero_fill :
    goesTo (stepWord 0x8106 (start 0x200 [(1, 0x80)])) fun t => t.reg 1 == 0x40 && t.reg 15 == 0 := by decide
theorem test_shiftLeft :
    goesTo (stepWord 0x830E (start 0x200 [(3, 0xC1)])) fun t => t.reg 3 == 0x82 && t.reg 15 == 1 := by decide
theorem test_shiftLeft_result_wins :
    goesTo (stepWord 0x8F0E (start 0x200 [(15, 0x81)])) fun t => t.reg 15 == 0x02 := by decide
theorem test_setRegConst :
    goesTo (stepWord 0x6A7F (start 0x200 [])) fun t => t.reg 10 == 0x7F && t.reg 9 == 0 := by decide
theorem test_addRegConst_wraps :
    goesTo (stepWord 0x7001 (start 0x200 [(0, 0xFF), (15, 0x07)])) fun t =>
      t.reg 0 == 0 && t.reg 15 == 0x07 := by decide
theorem test_addRegConst_fifteen :
    goesTo (stepWord 0x7F01 (start 0x200 [(15, 0xFF)])) fun t => t.reg 15 == 0 := by decide
theorem test_goto :
    goesTo (stepWord 0x1234 (start 0x200 [])) fun t => t.pc == 0x234 := by decide
theorem test_subroutine :
    goesTo (stepWord 0x2210 (start 0x0FFE [])) fun t => t.stack == [0x1000] && t.pc == 0x210 := by decide
theorem test_subroutine_full :
    stops (stepWord 0x2210 { start 0x206 [] with stack := List.replicate 16 0x202 }) (.stackOverflow) := by decide
theorem test_return :
    goesTo (stepWord 0x00EE { start 0x216 [] with stack := [0x300, 0x208] }) fun t =>
      t.stack == [0x300] && t.pc == 0x208 := by decide
theorem test_return_empty : stops (stepWord 0x00EE (start 0x216 [])) (.stackUnderflow) := by decide
theorem test_jumpWithOffset_past_memory :
    goesTo (stepWord 0xBFFF (start 0x202 [(0, 0xFF)])) fun t => t.pc == 0x10FE := by decide
theorem test_jumpWithOffset_register_0 :
    goesTo (stepWord 0xB300 (start 0x202 [(0, 0x01), (3, 0x40)])) fun t => t.pc == 0x301 := by decide
theorem test_skipIfRegEqualConst :
    goesTo (stepWord 0x3000 (start 0x0FFE [])) fun t => t.pc == 0x1002 := by decide
theorem test_skipIfRegEqualConst_not :
    goesTo (stepWord 0x3000 (start 0x20A [(0, 1)])) fun t => t.pc == 0x20C := by decide
theorem test_skipIfRegNotEqualConst :
    goesTo (stepWord 0x4511 (start 0x300 [(5, 0x10)])) fun t => t.pc == 0x304 := by decide
theorem test_skipIfRegNotEqualConst_not :
    goesTo (stepWord 0x4511 (start 0x300 [(5, 0x11)])) fun t => t.pc == 0x302 := by decide
theorem test_skipIfRegEqualReg :
    goesTo (stepWord 0x512F (start 0x300 [(1, 7), (2, 7)])) fun t => t.pc == 0x304 := by decide
theorem test_skipIfRegEqualReg_not :
    goesTo (stepWord 0x5120 (start 0x300 [(1, 7), (2, 8)])) fun t => t.pc == 0x302 := by decide
theorem test_skipIfRegNotEqualReg :
    goesTo (stepWord 0x9120 (start 0x300 [(1, 7), (2, 8)])) fun t => t.pc == 0x304 := by decide
theorem test_skipIfRegNotEqualReg_not :
    goesTo (stepWord 0x9330 (start 0x300 [(3, 9)])) fun t => t.pc == 0x302 := by decide
theorem test_setIndex :
    goesTo (stepWord 0xA300 { start 0x200 [] with index := 0xFFFF }) fun t =>
      t.index == 0x300 && t.pc == 0x202 := by decide
theorem test_addRegToIndex_no_flag :
    goesTo (stepWord 0xF31E { start 0x200 [(3, 2)] with index := 0xFFF }) fun t =>
      t.index == 0x1001 && t.reg 15 == 0 := by decide
theorem test_addRegToIndex_wraps :
    goesTo (stepWord 0xF31E { start 0x200 [(3, 2)] with index := 0xFFFF }) fun t => t.index == 0x0001 := by decide
theorem test_dumpRegisters :
    goesTo (stepWord 0xF255 (start 0x200 [(0, 1), (1, 2), (2, 3), (3, 4)])) fun t =>
      t.mem == [(0, 1), (1, 2), (2, 3), (0x200, 0xF2), (0x201, 0x55)] && t.index == 0 := by decide
theorem test_dumpRegisters_past_memory :
    stops (stepWord 0xF155 { start 0x200 [(0, 0xAB), (1, 0xCD)] with index := 0xFFF }) (.memoryOutOfBounds 0x1000 .data) := by decide
theorem test_loadRegisters :
    goesTo (stepWord 0xF165 { start 0x200 [(2, 0x77)] with index := 0x300, mem := [(0x300, 0xFE), (0x301, 0x55)] }) fun t =>
      t.reg 0 == 0xFE && t.reg 1 == 0x55 && t.reg 2 == 0x77 && t.index == 0x300 := by decide
theorem test_loadRegisters_own_word :
    goesTo (stepWord 0xF065 { start 0x200 [] with index := 0x200 }) fun t => t.reg 0 == 0xF0 := by decide
theorem test_randMask_low_bits :
    goesTo (randMaskWith 0xA7 4 0x0F State.reset) fun t => t.reg 4 == 0x07 && t.pc == 0x202 := by decide
theorem test_randMask_zero : goesTo (stepWord 0xC400 (start 0x200 [(4, 0x55)])) fun t =>
      t.randDraws == 1 := by decide
theorem test_getDelayTimer :
    goesTo (stepWord 0xF207 { start 0x200 [] with delay := 0x3C, sound := 0x11 }) fun t =>
      t.reg 2 == 0x3C && t.delay == 0x3C := by decide
theorem test_setDelayTimer :
    goesTo (stepWord 0xF215 (start 0x200 [(2, 0x3C)])) fun t =>
      t.delay == 0x3C && t.reg 2 == 0x3C && t.sound == 0 := by decide
theorem test_setSoundTimer :
    goesTo (stepWord 0xF718 (start 0x200 [(7, 0x05)])) fun t => t.sound == 0x05 && t.delay == 0 := by decide
theorem test_clearScreen_stops :
    stops (stepWord 0x0AE0 (start 0x200 [])) (.unimplementedOperation .clearScreen) := by decide
theorem test_drawSprite_stops :
    stops (stepWord 0xD125 { start 0x200 [] with index := 0xFFFF }) (.unimplementedOperation (.drawSprite 1 2 5)) := by decide
theorem test_skipIfKeyPressed_stops :
    stops (stepWord 0xE39E (start 0x200 [])) (.unimplementedOperation (.skipIfKeyPressed 3)) := by decide
theorem test_skipIfKeyNotPressed_stops :
    stops (stepWord 0xE3A1 (start 0x200 [])) (.unimplementedOperation (.skipIfKeyNotPressed 3)) := by decide
theorem test_awaitKeyIntoReg_stops :
    stops (stepWord 0xF50A (start 0x200 [])) (.unimplementedOperation (.awaitKeyIntoReg 5)) := by decide
theorem test_setIndexToGlyph_stops :
    stops (stepWord 0xF429 (start 0x200 [])) (.unimplementedOperation (.setIndexToGlyph 4)) := by decide
theorem test_storeDecimalDigits_stops :
    stops (stepWord 0xF233 (start 0x200 [])) (.unimplementedOperation (.storeDecimalDigits 2)) := by decide
theorem test_nativeCall_stops : stops (stepWord 0x0FFF (start 0x200 [])) (.illegalNativeCall 0xFFF) := by decide

/-! ### Fetch, decode errors and priority (`95_test_vectors.md` section 3.6) -/

theorem test_fetch_last_word : goesTo (stepWord 0x6001 (start 0x0FFE [])) fun t =>
      t.reg 0 == 1 && t.pc == 0x1000 := by
  decide
theorem test_fetch_at_0FFF : stops (step (start 0x0FFF [])) (.memoryOutOfBounds 0x1000 .fetch) := by decide
theorem test_fetch_at_FFFF : stops (step (start 0xFFFF [])) (.memoryOutOfBounds 0xFFFF .fetch) := by decide
theorem test_fetch_at_odd_address : goesTo (stepWord 0x1234 (start 0x0201 [])) fun t => t.pc == 0x234 := by decide
theorem test_illegal_word : stops (stepWord 0x8128 (start 0x200 [])) (.decodeError 0x81 0x28) := by decide

/-- The first step after reset runs the word the host places (log entries 17 and 18). -/
theorem test_withFetchWord_after_reset :
    goesTo (step (State.reset.withFetchWord 16 0x6001)) fun t => t.reg 0 == 1 && t.pc == 0x202 := by decide

/-! ### Witnesses: for every statement with hypotheses, states and operands that meet them -/

/-- A state that fetches the word `w` at `pc`. -/
def at' (w : Nat) (s : State) : State := s.withFetchWord 16 w

/-- `CodeInRange` as a computation. -/
def codeOk (s : State) : Bool := decide (s.pc.toNat ≤ 0x10FE) && s.stack.all fun r => decide (r.toNat ≤ 0x1000)

theorem codeInRange_of_codeOk {s : State} (h : codeOk s = true) : s.CodeInRange := by
  simpa [codeOk, State.CodeInRange] using h

theorem witness_DecodeOfEncodeIsIdentity :
    (Instr.nativeCall 0x0DF).wellFormed = true ∧ (Instr.nativeCall 0xFFF).wellFormed = true ∧
    (Instr.add 15 15).wellFormed = true := by decide

theorem witness_DecodedWordIsCanonicalUpToUnexaminedNibble :
    decodeWord 0x81F6 = .op (.shiftRight 1) ∧ decodeWord 0x0FEE = .op .ret ∧
    decodeWord 0x512F = .op (.skipIfRegEqualReg 1 2) ∧ decodeWord 0x8674 = .op (.add 6 7) := by decide

theorem witness_DecodeErrorExactlyOnTheIllegalWords_class_8 :
    IllegalWord 0x81 0x28 ∧ ¬ IllegalWord 0x81 0x27 ∧ ¬ IllegalWord 0x81 0x2E ∧ IllegalWord 0x8F 0xFF := by
  refine ⟨?_, ?_, ?_, ?_⟩ <;> decide

theorem witness_DecodeErrorExactlyOnTheIllegalWords_classes_E_F :
    IllegalWord 0xE0 0x9D ∧ ¬ IllegalWord 0xE0 0x9E ∧ IllegalWord 0xF0 0x06 ∧ ¬ IllegalWord 0xF0 0x07 ∧
    ¬ IllegalWord 0x7F 0xFF ∧ ¬ IllegalWord 0x90 0x00 := by
  refine ⟨?_, ?_, ?_, ?_, ?_, ?_⟩ <;> decide

theorem witness_ClassesEAndFDecodeByTheirLowByte :
    0x9D#8 ∉ [0x9E#8, 0xA1#8] ∧ 0xA2#8 ∉ [0x9E#8, 0xA1#8] ∧
    0x00#8 ∉ [0x07#8, 0x0A#8, 0x15#8, 0x18#8, 0x1E#8, 0x29#8, 0x33#8, 0x55#8, 0x65#8] ∧
    0xFF#8 ∉ [0x07#8, 0x0A#8, 0x15#8, 0x18#8, 0x1E#8, 0x29#8, 0x33#8, 0x55#8, 0x65#8] := by decide

theorem witness_ClassesFiveEightAndNineDecode :
    (0x8#4 ∈ [0x8#4, 0x9#4, 0xA#4, 0xB#4, 0xC#4, 0xD#4, 0xF#4]) ∧
    (0xF#4 ∈ [0x8#4, 0x9#4, 0xA#4, 0xB#4, 0xC#4, 0xD#4, 0xF#4]) := by decide

theorem witness_low_bytes_of_NativeCall :
    (0x00#8 ≠ 0xE0#8 ∧ 0x00#8 ≠ 0xEE#8) ∧ (0xE1#8 ≠ 0xE0#8 ∧ 0xE1#8 ≠ 0xEE#8) ∧
    (0xEF#8 ≠ 0xE0#8 ∧ 0xEF#8 ≠ 0xEE#8) := by decide

theorem witness_StepRunsTheDecodedInstruction : (at' 0x6001 (start 0x0FFE [])).fetches (.setRegConst 0 1) :=
  ⟨by decide, by decide⟩

theorem witness_StepFaultsBeforeExecuting_fetch :
    0xFFE < (start 0x0FFF []).pc.toNat ∧ 0xFFE < (start 0xFFFF []).pc.toNat := by decide

theorem witness_StepFaultsBeforeExecuting_decode :
    (at' 0xF0FF (start 0x0FFE [])).pc.toNat ≤ 0xFFE ∧
    decode (at' 0xF0FF (start 0x0FFE [])).nextHi (at' 0xF0FF (start 0x0FFE [])).nextLo = .decodeError 0xF0 0xFF := by
  decide

theorem witness_StepFaultsExactlyWhenItsCauseHolds_before_execution :
    FaultCause (start 0x0FFF []) (.memoryOutOfBounds 0x1000 .fetch) ∧
    FaultCause (at' 0xE09F (start 0x0FFE [])) (.decodeError 0xE0 0x9F) :=
  ⟨⟨by decide, by decide⟩, by decide, by decide, by decide, by decide⟩

theorem witness_StepFaultsExactlyWhenItsCauseHolds_stack :
    FaultCause (at' 0x00EE (start 0x200 [])) .stackUnderflow ∧
    FaultCause (at' 0x2210 { start 0x200 [] with stack := List.replicate 16 0x202 }) .stackOverflow :=
  ⟨⟨⟨by decide, by decide⟩, by decide⟩, ⟨0x210, by decide, by decide⟩, by decide⟩

theorem witness_StepFaultsExactlyWhenItsCauseHolds_data :
    FaultCause (at' 0xF155 { start 0x200 [] with index := 0xFFF }) (.memoryOutOfBounds 0x1000 .data) ∧
    FaultCause (at' 0xF065 { start 0x200 [] with index := 0xFFFF }) (.memoryOutOfBounds 0xFFFF .data) :=
  ⟨⟨1, .inl ⟨by decide, by decide⟩, by decide, by decide⟩, 0, .inr ⟨by decide, by decide⟩, by decide, by decide⟩

theorem witness_StepFaultsExactlyWhenItsCauseHolds_deferred_and_native :
    FaultCause (at' 0xD125 (start 0x200 [])) (.unimplementedOperation (.drawSprite 1 2 5)) ∧
    FaultCause (at' 0x0000 (start 0x200 [])) (.illegalNativeCall 0x000) :=
  ⟨⟨by decide, by decide, by decide⟩, by decide, by decide⟩

theorem witness_StepCompletesExactlyWhenSafe :
    (at' 0xF155 { start 0x200 [] with index := 0xFFE }).SafeHere ∧
    (at' 0x2210 { start 0x200 [] with stack := List.replicate 15 0x202 }).SafeHere ∧
    (at' 0x00EE { start 0x200 [] with stack := [0x208] }).SafeHere ∧ (at' 0x1200 (start 0x200 [])).SafeHere :=
  ⟨⟨.dumpRegisters 1, ⟨by decide, by decide⟩, by show _ ≤ _; decide⟩,
   ⟨.subroutine 0x210, ⟨by decide, by decide⟩, by show _ < _; decide⟩,
   ⟨.ret, ⟨by decide, by decide⟩, by show _ ≠ _; decide⟩,
   ⟨.goto 0x200, ⟨by decide, by decide⟩, by show _ = _; decide⟩⟩

theorem witness_TwentyThreeOperationsNeverFault :
    (Instr.goto 0xFFF).mayFault = false ∧ (Instr.skipIfRegEqualReg 1 1).mayFault = false ∧
    (Instr.shiftLeft 15).mayFault = false ∧ (Instr.addRegToIndex 15).mayFault = false ∧
    (Instr.randMaskIntoReg 0 0).mayFault = false ∧ (Instr.setSoundTimer 0).mayFault = false := by decide

theorem witness_GotoToItselfIsAFixedPoint :
    (at' 0x1200 (start 0x200 [])).pc.toNat = (0x200 : Addr12).toNat ∧
    (at' 0x1200 (start 0x200 [])).fetches (.goto 0x200) :=
  ⟨by decide, by decide, by decide⟩

/-- The clauses with a destination other than register 15, and those for another register. -/
theorem witness_destinations : (0 : RegIndex) ≠ flagReg ∧ (14 : RegIndex) ≠ flagReg ∧ (15 : RegIndex) ≠ 0 := by decide

theorem witness_FlagIsAWholeByteZeroOrOne_add_sub :
    (∃ t, exec (.add 14 15) (start 0x200 [(14, 0xFF), (15, 0xA5)]) = .next t) ∧
    (∃ t, exec (.sub 0 1) (start 0x200 [(15, 0xA5)]) = .next t) ∧
    (∃ t, exec (.reverseSub 0 1) (start 0x200 [(15, 0xA5)]) = .next t) ∧
    (Instr.add 14 15).flagDest = some 14 ∧ (Instr.sub 0 1).flagDest = some 0 ∧ (Instr.reverseSub 0 1).flagDest = some 0 :=
  ⟨⟨_, rfl⟩, ⟨_, rfl⟩, ⟨_, rfl⟩, rfl, rfl, rfl⟩

theorem witness_FlagIsAWholeByteZeroOrOne_shifts :
    (∃ t, exec (.shiftRight 0) (start 0x200 [(15, 0xA5)]) = .next t) ∧
    (∃ t, exec (.shiftLeft 14) (start 0x200 [(15, 0xA5)]) = .next t) ∧
    (Instr.shiftRight 0).flagDest = some 0 ∧ (Instr.shiftLeft 14).flagDest = some 14 :=
  ⟨⟨_, rfl⟩, ⟨_, rfl⟩, rfl, rfl⟩

theorem witness_GotoSetsPc : (0xFFF : Addr12) = 0xFFF#12 := rfl

theorem witness_SubroutinePushesAndJumps :
    (List.replicate 15 (0x202 : Word)).length < 16 ∧ 16 ≤ (List.replicate 16 (0x202 : Word)).length := by decide

theorem witness_ReturnPopsIntoPc :
    ({ start 0x200 [] with stack := [0x300, 0x1000] } : State).stack = [0x300] ++ [0x1000] ∧
    0xFFE < (0x1000 : Word).toNat ∧ (start 0x200 []).stack = [] := by decide

theorem witness_ReturnAfterCallRestoresPcAndStack :
    ∃ t, exec (.subroutine 0x300) (start 0x200 []) = .next t ∧
      ({ start 0x345 [(3, 9)] with stack := [0x202] } : State).stack =
      t.stack := ⟨_, rfl, by decide⟩

theorem witness_JumpWithOffsetAddsRegisterZero :
    goesTo (exec (.jumpWithOffsetV0 0xFFF) (start 0x202 [(0, 0xFF)])) fun t =>
      decide (0xFFE < t.pc.toNat) := by decide

theorem witness_DumpRegistersStoresTheBlock :
    ({ start 0x200 [] with index := 0xFF0 } : State).index.toNat + (15 : RegIndex).toNat ≤ 0xFFF ∧
    0xFFF < ({ start 0x200 [] with index := 0xFF1 } : State).index.toNat + (15 : RegIndex).toNat := by decide

theorem witness_LoadRegistersReadsTheBlock :
    ({ start 0x200 [] with index := 0xFFF } : State).index.toNat + (0 : RegIndex).toNat ≤ 0xFFF ∧
    0xFFF < ({ start 0x200 [] with index := 0xFFF } : State).index.toNat + (1 : RegIndex).toNat := by decide

theorem witness_LoadAfterDumpRestoresRegisters :
    ∃ t, exec (.dumpRegisters 1) { start 0x200 [(0, 7), (1, 9)] with index := 0xFFE } = .next t ∧
      (t.setReg 0 0).index = 0xFFE ∧ ∀ a, 0xFFE ≤ a → a ≤ 0xFFE + 1 → (t.setReg 0 0).readMem a = t.readMem a :=
  ⟨_, rfl, rfl, fun _ _ _ => rfl⟩

theorem witness_NextFetchSeesTheStore :
    (∃ t, exec (.dumpRegisters 1) { start 0x206 [(0, 0x12), (1, 0x0A)] with index := 0x208 } = .next t) ∧
    (start 0x206 []).pc.toNat + 2 = 0x208 + (0 : RegIndex).toNat ∧ (1 : RegIndex).toNat = (0 : RegIndex).toNat + 1 ∧
    decode 0x12 0x0A = .op (.goto 0x20A) := ⟨⟨_, rfl⟩, by decide⟩

theorem witness_RandMaskStoresAMaskedByte : (0x0F : Byte).getLsbD 7 = false := by decide

theorem witness_NativeCallAlwaysFaults :
    (at' 0x0000 (start 0x0FFE [])).fetches (.nativeCall 0x000) ∧
    (at' 0x0FFF (start 0x0000 [])).fetches (.nativeCall 0xFFF) :=
  ⟨⟨by decide, by decide⟩, by decide, by decide⟩

theorem witness_RegistersOutsideTheDestinationAreUnchanged :
    (∃ t, exec (.add 1 2) (start 0x200 []) = .next t) ∧ (Instr.add 1 2).writesReg 2 = false ∧
    (∃ t, exec (.loadRegisters 1) (start 0x200 []) = .next t) ∧ (Instr.loadRegisters 1).writesReg 2 = false ∧
    (∃ t, exec (.goto 0x300) (start 0x200 []) = .next t) ∧ (Instr.goto 0x300).writesReg 0 = false :=
  ⟨⟨_, rfl⟩, rfl, ⟨_, rfl⟩, rfl, ⟨_, rfl⟩, rfl⟩

theorem witness_MemoryOutsideTheStoreIsUnchanged :
    (∃ t, exec (.dumpRegisters 1) { start 0x200 [] with index := 0x300 } = .next t) ∧
    (Instr.dumpRegisters 1).storesTo { start 0x200 [] with index := 0x300 } 0x2FF = false ∧
    (Instr.dumpRegisters 1).storesTo { start 0x200 [] with index := 0x300 } 0x302 = false ∧
    (∃ t, exec (.mov 1 2) (start 0x200 []) = .next t) ∧ (Instr.mov 1 2).storesTo (start 0x200 []) 0 = false :=
  ⟨⟨_, rfl⟩, by decide, by decide, ⟨_, rfl⟩, rfl⟩

theorem witness_OtherStateIsUnchanged :
    ∃ t, exec (.dumpRegisters 1) { start 0x200 [] with index := 0x300 } = .next t ∧
      (Instr.dumpRegisters 1).writesIndex = false ∧ (Instr.dumpRegisters 1).writesStack = false ∧
      (Instr.dumpRegisters 1).writesDelay = false ∧ (Instr.dumpRegisters 1).writesSound = false ∧
      (Instr.dumpRegisters 1).drawsRandom = false ∧ (Instr.dumpRegisters 1).assignsPc = false :=
  ⟨_, rfl, rfl, rfl, rfl, rfl, rfl, rfl⟩

theorem witness_SoundTimerInfluencesNothing :
    stops (step (start 0x0FFF [])) (.memoryOutOfBounds 0x1000 .fetch) ∧
    goesTo (stepWord 0xF718 (start 0x200 [(7, 5)])) fun t => t.sound == 5 := by decide

theorem witness_RandomByteInfluencesOnlyRandMask :
    (∀ x nn, ¬ (at' 0x1234 (start 0x200 [])).fetches (.randMaskIntoReg x nn)) ∧
    (goesTo (step (at' 0x1234 (start 0x200 []))) fun t => t.pc == 0x234) ∧
    (∀ x nn, ¬ (start 0x0FFF []).fetches (.randMaskIntoReg x nn)) := by
  refine ⟨fun x nn h => ?_, by decide, fun x nn h => absurd h.1 (by decide)⟩
  have h2 : decode (at' 0x1234 (start 0x200 [])).nextHi (at' 0x1234 (start 0x200 [])).nextLo = .op (.goto 0x234) := by
    decide
  exact absurd (h2.symm.trans h.2) (by simp)

theorem witness_CanonicalMemoriesThatListAlikeAreEqual :
    Memory.wf [(0, 1), (4095, 2)] = true ∧ Memory.wf [(4096, 1)] = false ∧ Memory.wf [(5, 1), (5, 2)] = false := by decide

theorem witness_StepKeepsMemoryAndStackBounds :
    (at' 0xF155 { start 0x200 [] with index := 0xFFE, stack := List.replicate 16 0x202 }).Inv ∧
    goesTo (stepWord 0xF155 { start 0x200 [] with index := 0xFFE, stack := List.replicate 16 0x202 }) fun t =>
      t.index == 0xFFE := ⟨⟨by decide, by decide⟩, by decide⟩

theorem witness_StepKeepsCodeAddressesInRange :
    (at' 0xBFFF { start 0x0FFE [(0, 0xFF)] with stack := [0x1000] }).CodeInRange ∧
    (start 0x10FE []).CodeInRange ∧
    goesTo (stepWord 0xBFFF { start 0x0FFE [(0, 0xFF)] with stack := [0x1000] }) fun t => t.pc == 0x10FE :=
  ⟨codeInRange_of_codeOk (by decide), codeInRange_of_codeOk (by decide), by decide⟩

theorem witness_HostRunsKeepMemoryAndStackBounds :
    (at' 0x6001 (start 0x200 [])).Inv ∧
    goesTo (runActions [.setReg 1 2, .push 0x300, .step, .pop, .reset] (at' 0x6001 (start 0x200 []))) fun t =>
      t.pc == 0x200 := ⟨⟨by decide, by decide⟩, by decide⟩

theorem witness_RunsUnderAnyTimerPolicyKeepCodeInRange :
    (∀ a ∈ [HostAction.setDelay 1, .step, .setSound 2, .step], a.inRun = true) ∧
    (at' 0x1200 (start 0x200 [])).CodeInRange ∧
    goesTo (runActions [.setDelay 1, .step, .setSound 2, .step] (at' 0x1200 (start 0x200 []))) fun t =>
      t.delay == 1 && t.sound == 2 := ⟨by decide, codeInRange_of_codeOk (by decide), by decide⟩

theorem witness_LaunchStateHasResetValuesAndImage : 0 < 4096 ∧ 4095 < 4096 := by decide

end Sys2Proof.Tests
end

section

/-! # The register file (spec section 10) -/

namespace Sys2Proof.Machine

/-- Settles O27: the two branches of `State.reg_setReg` (R20). -/
theorem registerFileReadAfterWrite : Obligations.RegisterFileReadAfterWrite := by
  intro s i v
  constructor
  · rw [State.reg_setReg, if_pos rfl]
  · intro j hji
    rw [State.reg_setReg, if_neg hji]

end Sys2Proof.Machine
end

section

/-! # Words by class (spec section 30) -/

namespace Sys2Proof

/-! ### The low bytes that classes E and F leave undefined -/

/-- Class E defines no operation exactly for the low bytes outside the table of R91: each test of the
dispatch that succeeds finds an operation. -/
theorem decodeClassE_eq_none {x : Nibble} {lo : Byte} :
    decodeClassE x lo = none ↔ lo ∉ [0x9E#8, 0xA1#8] := by
  simp [decodeClassE, ite_eq_iff]

/-- Class F defines no operation exactly for the low bytes outside the table of R92, again test by test. -/
theorem decodeClassF_eq_none {x : Nibble} {lo : Byte} :
    decodeClassF x lo = none ↔
      lo ∉ [0x07#8, 0x0A#8, 0x15#8, 0x18#8, 0x1E#8, 0x29#8, 0x33#8, 0x55#8, 0x65#8] := by
  simp [decodeClassF, ite_eq_iff]

/-- What the decoder answers on a word of form `cXNN` it answers on the word's two bytes. -/
theorem decode_eq_of_decodeWord_formXNN {c x : Nibble} {nn : Byte} {r : DecodeResult}
    (h : decodeWord (formXNN c x nn) = r) : decode (c ++ x) nn = r := by
  rwa [decodeWord_formXNN] at h

/-! ### The obligations -/

open Laws

/-- Settles O6: a word `cNNN` is the canonical word of its operation (R78, R79, R87, R88), so the round trip reads it
back; the other classes are the decoder's class lemmas (R80, R81, R83, R84, R89, R90). -/
theorem classesOfOneOperationDecode : Obligations.ClassesOfOneOperationDecode :=
  ⟨fun nnn => ⟨RoundTrip.goto nnn rfl, RoundTrip.subroutine nnn rfl, RoundTrip.setIndex nnn rfl,
      RoundTrip.jumpWithOffsetV0 nnn rfl⟩,
    fun x nn => ⟨decode_class3 x nn, decode_class4 x nn, decode_class6 x nn, decode_class7 x nn,
      decode_classC x nn⟩,
    decode_classD⟩

/-- Settles O7: a listed low byte makes the canonical word of its operation, which the round trip reads back; on any
other low byte the class's own dispatch finds nothing (R91, R92). -/
theorem classesEAndFDecodeByTheirLowByte : Obligations.ClassesEAndFDecodeByTheirLowByte := by
  refine ⟨fun x => ?_, fun x lo hlo => ?_, fun x lo hlo => ?_⟩
  · exact ⟨decode_eq_of_decodeWord_formXNN (RoundTrip.skipIfKeyPressed x rfl),
      decode_eq_of_decodeWord_formXNN (RoundTrip.skipIfKeyNotPressed x rfl),
      decode_eq_of_decodeWord_formXNN (RoundTrip.getDelayTimer x rfl),
      decode_eq_of_decodeWord_formXNN (RoundTrip.awaitKeyIntoReg x rfl),
      decode_eq_of_decodeWord_formXNN (RoundTrip.setDelayTimer x rfl),
      decode_eq_of_decodeWord_formXNN (RoundTrip.setSoundTimer x rfl),
      decode_eq_of_decodeWord_formXNN (RoundTrip.addRegToIndex x rfl),
      decode_eq_of_decodeWord_formXNN (RoundTrip.setIndexToGlyph x rfl),
      decode_eq_of_decodeWord_formXNN (RoundTrip.storeDecimalDigits x rfl),
      decode_eq_of_decodeWord_formXNN (RoundTrip.dumpRegisters x rfl),
      decode_eq_of_decodeWord_formXNN (RoundTrip.loadRegisters x rfl)⟩
  · rw [decode_classE, decodeClassE_eq_none.mpr hlo, decodeAnswer_none]
  · rw [decode_classF, decodeClassF_eq_none.mpr hlo, decodeAnswer_none]

end Sys2Proof
end

section

/-! # The ALU and register instructions (spec section 41) -/

namespace Sys2Proof.Machine

/-! ### The byte sum -/

theorem toNat_addResult (a b : Byte) : (addResult a b).toNat = (a.toNat + b.toNat) % 256 := BitVec.toNat_add a b

theorem addResult_zero (a : Byte) : addResult a 0 = a := BitVec.add_zero a

/-! ### AddRegConst -/

/-- AddRegConst always completes; its next state is one register write and the advance of `pc` (R132). -/
theorem exec_addRegConst (x : RegIndex) (nn : Byte) (s : State) :
    exec (.addRegConst x nn) s = .next (s.setReg x (addResult (s.reg x) nn)).advance := rfl

/-- Settles O26: the class-7 word decodes to AddRegConst, whose one write puts the byte sum into `x[X]` and, as the
register file does not alias (O27), into no other register (R132). -/
theorem addRegConstWrapsWithoutFlag : Obligations.AddRegConstWrapsWithoutFlag := by
  intro x nn s
  obtain ⟨hsum, hother⟩ := registerFileReadAfterWrite s x (addResult (s.reg x) nn)
  refine ⟨decode_class7 x nn, _, exec_addRegConst x nn s, ?_, fun r hr => ?_, fun hnn => ?_, rfl⟩
  · rw [State.reg_advance, hsum, toNat_addResult]
  · rw [State.reg_advance, hother r hr]
  · rw [State.reg_advance, hsum, hnn, addResult_zero]

end Sys2Proof.Machine
end

section

/-! # Index and memory (spec section 43) -/

namespace Sys2Proof.Machine

/-! ### The address operand -/

/-- NNN is zero-extended to a word, so its value is kept (R160). -/
theorem toNat_addrOperand (nnn : Addr12) : (addrOperand nnn).toNat = nnn.toNat :=
  BitVec.toNat_setWidth_of_le (by decide)

/-- An address operand is at most 0xFFF: 12 bits produce no more (R160). -/
theorem toNat_addrOperand_le (nnn : Addr12) : (addrOperand nnn).toNat ≤ 0xFFF := by
  rw [toNat_addrOperand]
  exact Nat.le_of_lt_succ nnn.isLt

/-! ### SetIndex -/

/-- SetIndex always completes; its next state is one write of `I` and the advance of `pc` (R160). -/
theorem exec_setIndex (nnn : Addr12) (s : State) :
    exec (.setIndex nnn) s = .next (s.setIndexReg (addrOperand nnn)).advance := rfl

/-- Settles O36: the word `ANNN` is SetIndex's canonical word, which the round trip reads back, and the one write is of
the zero-extended operand (R160). -/
theorem setIndexAssignsI : Obligations.SetIndexAssignsI := by
  intro nnn s
  exact ⟨Laws.RoundTrip.setIndex nnn rfl, _, exec_setIndex nnn s, rfl, toNat_addrOperand nnn,
    toNat_addrOperand_le nnn⟩

end Sys2Proof.Machine
end

section

/-! # NativeCall (spec section 45) -/

namespace Sys2Proof

/-- A class-0 word whose low byte names neither ClearScreen nor Return is a NativeCall (R77, R188). -/
theorem decode_nativeCall (x : Nibble) {lo : Byte} (hE0 : lo ≠ 0xE0#8) (hEE : lo ≠ 0xEE#8) :
    decode (0x0#4 ++ x) lo = .op (.nativeCall (x ++ lo)) := by
  rw [decode_class0, decodeClass0, if_neg hE0, if_neg hEE, addrField]

end Sys2Proof

namespace Sys2Proof.Machine

/-! ### A fetched operation that faults -/

/-- A step that fetches an operation runs it: the fetch rules out the fetch fault, and the decoded word the decode
error (R110, R118). -/
theorem step_of_fetches {s : State} {i : Instr} (h : s.fetches i) : step s = exec i s := by
  obtain ⟨hpc, hdec⟩ := h
  rcases step_cases s with ⟨hout, -⟩ | ⟨-, hnone, -⟩ | ⟨j, hj, hstep⟩
  · exact absurd hpc (Nat.not_le_of_lt hout)
  · have hsome := decode_eq_op.mp hdec
    rw [hnone] at hsome
    contradiction
  · rw [hstep, State.fetches_unique hj ⟨hpc, hdec⟩]

/-- The report of a step that faults holds the fault and the state as it was (R197, R200). -/
theorem report_of_fault {s : State} {f : Fault} (h : step s = .fault f) : report s = ⟨s, some f⟩ := by
  rw [report, h]

/-! ### NativeCall -/

/-- NativeCall faults with its operand, whatever the state (R188, R196). -/
theorem exec_nativeCall (nnn : Addr12) (s : State) :
    exec (.nativeCall nnn) s = .fault (.illegalNativeCall nnn) := rfl

/-- Settles O45: a step that fetches NativeCall runs it, and its fault is reported with the state as it was; the
all-zero word is the class-0 word with X and low byte 0 (R188, R196). -/
theorem nativeCallAlwaysFaults : Obligations.NativeCallAlwaysFaults := by
  refine ⟨exec_nativeCall, fun x lo => decode_nativeCall x, fun nnn s hfetch => ?_, ?_⟩
  · have hstep : step s = .fault (.illegalNativeCall nnn) := (step_of_fetches hfetch).trans (exec_nativeCall nnn s)
    exact report_of_fault hstep
  · exact decode_nativeCall 0x0#4 (by decide) (by decide)

end Sys2Proof.Machine
end

section

/-! # What an operation can do (spec sections 40 and 60) -/

namespace Sys2Proof.Machine

/-! ### The outcomes of `exec` -/

/-- What an operation that completes has done to the state: one constructor per way of committing (R114, R121). Where
several operations share one, its hypotheses say what the frame predicates of `Safety` know of the operation. -/
inductive Effect (s : State) : Instr → State → Prop
  /-- One register is written and `pc` advances. -/
  | writeReg {i : Instr} {x : RegIndex} (v : Byte) (hfault : i.mayFault = false) (hx : i.writesReg x = true) :
      Effect s i (s.setReg x v).advance
  /-- The flag and the result are written and `pc` advances. -/
  | writeFlagged {i : Instr} {x : RegIndex} (f v : Byte) (hfault : i.mayFault = false) (hx : i.writesReg x = true)
      (hflag : i.writesReg flagReg = true) : Effect s i (s.setFlagAndResult x f v).advance
  /-- `I` is written and `pc` advances. -/
  | writeIndex {i : Instr} (v : Word) (hfault : i.mayFault = false) (hi : i.writesIndex = true) :
      Effect s i (s.setIndexReg v).advance
  /-- `pc` is set to a target within the bound of R30. -/
  | jump {i : Instr} (target : Word) (hfault : i.mayFault = false) (hi : i.assignsPc = true)
      (hle : target.toNat ≤ 0x10FE) : Effect s i (s.setPc target)
  /-- `pc` advances by one instruction or by two. -/
  | skip {i : Instr} (c : Bool) (hfault : i.mayFault = false) (hi : i.assignsPc = true) : Effect s i (s.skipIf c)
  | call (nnn : Addr12) (hdepth : s.depth < stackCapacity) :
      Effect s (.subroutine nnn) ((s.push s.npc).setPc (addrOperand nnn))
  | ret (rest : List Word) (v : Word) (hstack : s.stack = rest ++ [v]) :
      Effect s .ret { s with pc := v, stack := rest }
  | randMask (x : RegIndex) (nn : Byte) :
      Effect s (.randMaskIntoReg x nn) (s.consumeRand.setReg x (s.randByte &&& nn)).advance
  | setDelay (x : RegIndex) : Effect s (.setDelayTimer x) (s.setDelay (s.reg x)).advance
  | setSound (x : RegIndex) : Effect s (.setSoundTimer x) (s.setSound (s.reg x)).advance
  | dump (x : RegIndex) (hblock : s.index.toNat + x.toNat ≤ 4095) :
      Effect s (.dumpRegisters x) (s.writeBlock s.blockBase (s.blockRegs x)).advance
  | load (x : RegIndex) (hblock : s.index.toNat + x.toNat ≤ 4095) :
      Effect s (.loadRegisters x) (s.loadBlock x).advance

/-- The fault a decoded operation raises at a state: the rows of R190 that come after fetch and decode. -/
inductive ExecFault (s : State) : Instr → Fault → Prop
  | underflow (hstack : s.stack = []) : ExecFault s .ret .stackUnderflow
  | overflow (nnn : Addr12) (hdepth : stackCapacity ≤ s.depth) : ExecFault s (.subroutine nnn) .stackOverflow
  | dump (x : RegIndex) (hblock : 4095 < s.index.toNat + x.toNat) :
      ExecFault s (.dumpRegisters x) (.memoryOutOfBounds (max s.index.toNat 4096) .data)
  | load (x : RegIndex) (hblock : 4095 < s.index.toNat + x.toNat) :
      ExecFault s (.loadRegisters x) (.memoryOutOfBounds (max s.index.toNat 4096) .data)
  | deferred {i : Instr} (hi : i.isDeferred = true) : ExecFault s i (.unimplementedOperation i)
  | nativeCall (nnn : Addr12) : ExecFault s (.nativeCall nnn) (.illegalNativeCall nnn)

/-- How `exec` ends: it completes with the effect of its operation, or raises the fault of its operation. -/
def ExecSpec (i : Instr) (s : State) : Prop :=
  (∃ t, exec i s = .next t ∧ Effect s i t) ∨ (∃ f, exec i s = .fault f ∧ ExecFault s i f)

section
variable {i : Instr} {s t : State} {f : Fault}

theorem ExecSpec.completes (hexec : exec i s = .next t) (heff : Effect s i t) : ExecSpec i s := .inl ⟨t, hexec, heff⟩

theorem ExecSpec.faults (hexec : exec i s = .fault f) (hf : ExecFault s i f) : ExecSpec i s := .inr ⟨f, hexec, hf⟩

end

/-- The target of JumpWithOffsetV0 is the exact sum: 0xFFF and a byte do not reach 2^16 (R143). -/
theorem State.toNat_offsetTarget (s : State) (nnn : Addr12) :
    (s.offsetTarget nnn).toNat = nnn.toNat + (s.reg 0).toNat := by
  have hnnn := nnn.isLt
  have hreg := (s.reg 0).isLt
  simp only [State.offsetTarget, State.regWide, BitVec.toNat_add, toNat_addrOperand, BitVec.toNat_setWidth,
    BitVec.ofNat_eq_ofNat]
  omega

/-- R143's derived bound: the target is at most 0x10FE. -/
theorem State.toNat_offsetTarget_le (s : State) (nnn : Addr12) : (s.offsetTarget nnn).toNat ≤ 0x10FE := by
  have hnnn := nnn.isLt
  have hreg := (s.reg 0).isLt
  rw [State.toNat_offsetTarget]
  omega

theorem execSpec_subroutine (nnn : Addr12) (s : State) : ExecSpec (.subroutine nnn) s := by
  rcases execSubroutine_cases nnn s with ⟨hdepth, hexec⟩ | ⟨hdepth, hexec⟩
  · exact .completes hexec (.call nnn hdepth)
  · exact .faults hexec (.overflow nnn hdepth)

theorem execSpec_ret (s : State) : ExecSpec .ret s := by
  rcases execRet_cases s with ⟨rest, v, hstack, hexec⟩ | ⟨hstack, hexec⟩
  · exact .completes hexec (.ret rest v hstack)
  · exact .faults hexec (.underflow hstack)

theorem execSpec_dumpRegisters (x : RegIndex) (s : State) : ExecSpec (.dumpRegisters x) s := by
  rcases execDumpRegisters_cases x s with ⟨hblock, hexec⟩ | ⟨hblock, hexec⟩
  · exact .completes hexec (.dump x hblock)
  · exact .faults hexec (.dump x hblock)

theorem execSpec_loadRegisters (x : RegIndex) (s : State) : ExecSpec (.loadRegisters x) s := by
  rcases execLoadRegisters_cases x s with ⟨hblock, hexec⟩ | ⟨hblock, hexec⟩
  · exact .completes hexec (.load x hblock)
  · exact .faults hexec (.load x hblock)

/-- The one case split over the 35 operations: what each can do, and when it faults (R110, R118, R199). -/
theorem execSpec (i : Instr) (s : State) : ExecSpec i s :=
  match i with
  | .clearScreen | .drawSprite _ _ _ | .skipIfKeyPressed _ | .skipIfKeyNotPressed _ | .awaitKeyIntoReg _
  | .storeDecimalDigits _ | .setIndexToGlyph _ => .faults rfl (.deferred rfl)
  | .nativeCall nnn => .faults rfl (.nativeCall nnn)
  | .ret => execSpec_ret s
  | .subroutine nnn => execSpec_subroutine nnn s
  | .dumpRegisters x => execSpec_dumpRegisters x s
  | .loadRegisters x => execSpec_loadRegisters x s
  | .goto nnn => .completes rfl (.jump _ rfl rfl (Nat.le_trans (toNat_addrOperand_le nnn) (by decide)))
  | .jumpWithOffsetV0 nnn => .completes rfl (.jump _ rfl rfl (s.toNat_offsetTarget_le nnn))
  | .skipIfRegEqualConst _ _ | .skipIfRegNotEqualConst _ _ | .skipIfRegEqualReg _ _ | .skipIfRegNotEqualReg _ _ =>
    .completes rfl (.skip _ rfl rfl)
  | .setRegConst x _ | .addRegConst x _ | .mov x _ | .or x _ | .and x _ | .xor x _ | .getDelayTimer x =>
    .completes rfl (.writeReg _ rfl (beq_self_eq_true x))
  | .add x _ | .sub x _ | .reverseSub x _ | .shiftRight x | .shiftLeft x =>
    .completes rfl (.writeFlagged _ _ rfl (by simp [Instr.writesReg]) (by simp [Instr.writesReg]))
  | .setIndex _ | .addRegToIndex _ => .completes rfl (.writeIndex _ rfl rfl)
  | .randMaskIntoReg x nn => .completes rfl (.randMask x nn)
  | .setDelayTimer x => .completes rfl (.setDelay x)
  | .setSoundTimer x => .completes rfl (.setSound x)

section
variable {i : Instr} {s t : State} {f : Fault}

/-- A completed operation had its effect. -/
theorem effect_of_exec (h : exec i s = .next t) : Effect s i t := by
  rcases execSpec i s with ⟨u, hu, heff⟩ | ⟨f, hf, -⟩
  · cases hu.symm.trans h
    exact heff
  · cases hf.symm.trans h

/-- An operation that faults had the cause of that fault. -/
theorem execFault_of_exec (h : exec i s = .fault f) : ExecFault s i f := by
  rcases execSpec i s with ⟨u, hu, -⟩ | ⟨g, hg, hfault⟩
  · cases hu.symm.trans h
  · cases hg.symm.trans h
    exact hfault

/-- Each of the seven deferred operations faults with itself as the payload (R180). -/
theorem exec_of_isDeferred (h : i.isDeferred = true) : exec i s = .fault (.unimplementedOperation i) := by
  unfold Instr.isDeferred at h
  split at h
  case h_8 => contradiction
  all_goals rfl

/-- An operation with a cause to fault raises that fault: the cause rules out the other outcome. -/
theorem ExecFault.exec_eq (h : ExecFault s i f) : exec i s = .fault f := by
  cases h with
  | underflow hstack =>
    exact ((execRet_cases s).resolve_left fun ⟨_, _, htop, _⟩ => by simp [hstack] at htop).2
  | overflow nnn hdepth =>
    exact ((execSubroutine_cases nnn s).resolve_left fun ⟨hlt, _⟩ => Nat.not_lt_of_le hdepth hlt).2
  | dump x hblock =>
    exact ((execDumpRegisters_cases x s).resolve_left fun ⟨hle, _⟩ => Nat.not_le_of_lt hblock hle).2
  | load x hblock =>
    exact ((execLoadRegisters_cases x s).resolve_left fun ⟨hle, _⟩ => Nat.not_le_of_lt hblock hle).2
  | deferred hi => exact exec_of_isDeferred hi
  | nativeCall nnn => exact exec_nativeCall nnn s

/-- The twenty-three operations that R199 lists meet the duties of R226 everywhere. -/
theorem safeIn_of_mayFault_eq_false (h : i.mayFault = false) : i.safeIn s := by
  unfold Instr.safeIn
  split
  case h_5 => exact h
  all_goals contradiction

/-- An operation completes only where its duty holds (R226). -/
theorem Effect.safeIn (h : Effect s i t) : i.safeIn s := by
  cases h with
  | writeReg _ hfault | writeFlagged _ _ hfault | writeIndex _ hfault | jump _ hfault | skip _ hfault =>
    exact safeIn_of_mayFault_eq_false hfault
  | randMask | setDelay | setSound => exact safeIn_of_mayFault_eq_false rfl
  | call _ hdepth => exact hdepth
  | ret rest v hstack => exact fun hnil => by simp [hnil] at hstack
  | dump _ hblock | load _ hblock => exact hblock

theorem mayFault_of_isDeferred (h : i.isDeferred = true) : i.mayFault = true := by
  unfold Instr.mayFault
  split
  case h_6 => exact h
  all_goals rfl

/-- No state meets the duty of a deferred operation: duty (d) of R226 excludes it. -/
theorem not_safeIn_of_isDeferred (h : i.isDeferred = true) : ¬ i.safeIn s := by
  unfold Instr.safeIn
  split
  case h_5 => simp [mayFault_of_isDeferred h]
  all_goals contradiction

/-- An operation faults only where its duty is broken (R226). -/
theorem ExecFault.not_safeIn (h : ExecFault s i f) : ¬ i.safeIn s := by
  cases h with
  | underflow hstack => exact fun hsafe => hsafe hstack
  | overflow _ hdepth => exact Nat.not_lt_of_le hdepth
  | dump _ hblock | load _ hblock => exact Nat.not_le_of_lt hblock
  | nativeCall nnn => exact Bool.noConfusion
  | deferred hi => exact not_safeIn_of_isDeferred hi

/-- `exec` answers a next state exactly where the operation's duty holds (R226). -/
theorem exec_next_iff_safeIn : (∃ t, exec i s = .next t) ↔ i.safeIn s := by
  constructor
  · rintro ⟨t, h⟩
    exact (effect_of_exec h).safeIn
  · intro hsafe
    rcases execSpec i s with ⟨t, h, -⟩ | ⟨f, -, hfault⟩
    · exact ⟨t, h⟩
    · exact absurd hsafe hfault.not_safeIn

end

end Sys2Proof.Machine
end

section

/-! # The instruction cycle (spec sections 40 and 60) -/

namespace Sys2Proof

/-! ### The illegal words -/

/-- Class 8 defines no operation exactly for the seven values of N outside the table of R85. -/
theorem decodeClass8_eq_none {x y n : Nibble} :
    decodeClass8 x y n = none ↔ n ∈ [0x8#4, 0x9#4, 0xA#4, 0xB#4, 0xC#4, 0xD#4, 0xF#4] := by
  have hlist : (n ≠ 0x0#4 ∧ n ≠ 0x1#4 ∧ n ≠ 0x2#4 ∧ n ≠ 0x3#4 ∧ n ≠ 0x4#4 ∧ n ≠ 0x5#4 ∧ n ≠ 0x6#4 ∧ n ≠ 0x7#4 ∧
      n ≠ 0xE#4) ↔ n ∈ [0x8#4, 0x9#4, 0xA#4, 0xB#4, 0xC#4, 0xD#4, 0xF#4] := by
    revert n
    decide
  rw [← hlist]
  simp [decodeClass8, ite_eq_iff]

/-! ### Bytes by class -/

/-- The decoder's class split (R75): what holds of the two bytes of every word of each of the sixteen classes holds of
every two bytes. The low byte is given as Y and N where the class takes it apart. -/
theorem bytes_byClass {motive : Byte → Byte → Prop}
    (class0 : ∀ (x : Nibble) (lo : Byte), motive (0x0#4 ++ x) lo)
    (class1 : ∀ (x : Nibble) (lo : Byte), motive (0x1#4 ++ x) lo)
    (class2 : ∀ (x : Nibble) (lo : Byte), motive (0x2#4 ++ x) lo)
    (class3 : ∀ (x : Nibble) (lo : Byte), motive (0x3#4 ++ x) lo)
    (class4 : ∀ (x : Nibble) (lo : Byte), motive (0x4#4 ++ x) lo)
    (class5 : ∀ x y n : Nibble, motive (0x5#4 ++ x) (y ++ n))
    (class6 : ∀ (x : Nibble) (lo : Byte), motive (0x6#4 ++ x) lo)
    (class7 : ∀ (x : Nibble) (lo : Byte), motive (0x7#4 ++ x) lo)
    (class8 : ∀ x y n : Nibble, motive (0x8#4 ++ x) (y ++ n))
    (class9 : ∀ x y n : Nibble, motive (0x9#4 ++ x) (y ++ n))
    (classA : ∀ (x : Nibble) (lo : Byte), motive (0xA#4 ++ x) lo)
    (classB : ∀ (x : Nibble) (lo : Byte), motive (0xB#4 ++ x) lo)
    (classC : ∀ (x : Nibble) (lo : Byte), motive (0xC#4 ++ x) lo)
    (classD : ∀ x y n : Nibble, motive (0xD#4 ++ x) (y ++ n))
    (classE : ∀ (x : Nibble) (lo : Byte), motive (0xE#4 ++ x) lo)
    (classF : ∀ (x : Nibble) (lo : Byte), motive (0xF#4 ++ x) lo) (hi lo : Byte) : motive hi lo := by
  have hsplit : ∀ c : Nibble, c = 0x0#4 ∨ c = 0x1#4 ∨ c = 0x2#4 ∨ c = 0x3#4 ∨ c = 0x4#4 ∨ c = 0x5#4 ∨ c = 0x6#4 ∨
      c = 0x7#4 ∨ c = 0x8#4 ∨ c = 0x9#4 ∨ c = 0xA#4 ∨ c = 0xB#4 ∨ c = 0xC#4 ∨ c = 0xD#4 ∨ c = 0xE#4 ∨
      c = 0xF#4 := by decide
  have hfields : ∀ c x y n : Nibble, motive (c ++ x) (y ++ n) := by
    intro c x y n
    rcases hsplit c with rfl | rfl | rfl | rfl | rfl | rfl | rfl | rfl | rfl | rfl | rfl | rfl | rfl | rfl | rfl | rfl
    exacts [class0 .., class1 .., class2 .., class3 .., class4 .., class5 .., class6 .., class7 .., class8 ..,
      class9 .., classA .., classB .., classC .., classD .., classE .., classF ..]
  have hmotive := hfields (hiNibble hi) (loNibble hi) (hiNibble lo) (loNibble lo)
  rwa [nibbles_append, nibbles_append] at hmotive

/-- A decode error is an answer of class 8, E or F, and there exactly for the listed words (R93, R95). -/
theorem decodeOp_eq_none (hi lo : Byte) : decodeOp hi lo = none ↔ Machine.IllegalWord hi lo := by
  induction hi, lo using bytes_byClass with
  | class8 x y n => simp [decodeOp, Machine.IllegalWord, decodeClass8_eq_none]
  | classE x lo => simp [decodeOp, Machine.IllegalWord, decodeClassE_eq_none]
  | classF x lo => simp [decodeOp, Machine.IllegalWord, decodeClassF_eq_none]
  | _ => simp [decodeOp, Machine.IllegalWord]

/-- Settles O4: the decoder's payload is its two bytes, and it fails exactly on the illegal words (R95, R191). -/
theorem decodeErrorExactlyOnTheIllegalWords : Obligations.DecodeErrorExactlyOnTheIllegalWords := by
  intro hi lo hi' lo'
  rw [decode_eq_error, decodeOp_eq_none, eq_comm (a := hi), eq_comm (a := lo)]

end Sys2Proof

namespace Sys2Proof.Machine

/-! ### The step -/

/-- Settles O11: a step that fetches an operation runs it (R113, R118). -/
theorem stepRunsTheDecodedInstruction : Obligations.StepRunsTheDecodedInstruction :=
  fun _ _ hpc hdec => step_of_fetches ⟨hpc, hdec⟩

/-- A fetch that leaves memory ends the step (R111). -/
theorem step_of_pc_out {s : State} (hpc : 0xFFE < s.pc.toNat) :
    step s = .fault (.memoryOutOfBounds (max s.pc.toNat 4096) .fetch) := by
  rcases step_cases s with ⟨-, hstep⟩ | ⟨hin, -⟩ | ⟨i, ⟨hin, -⟩, -⟩
  · exact hstep
  · exact absurd hin (Nat.not_le_of_lt hpc)
  · exact absurd hin (Nat.not_le_of_lt hpc)

/-- A fetched word that is no operation ends the step (R113, R191). -/
theorem step_of_decodeOp_none {s : State} (hpc : s.canFetch) (hnone : decodeOp s.nextHi s.nextLo = none) :
    step s = .fault (.decodeError s.nextHi s.nextLo) := by
  rcases step_cases s with ⟨hout, -⟩ | ⟨-, -, hstep⟩ | ⟨i, ⟨-, hdec⟩, -⟩
  · exact absurd hpc (Nat.not_le_of_lt hout)
  · exact hstep
  · rw [decode_eq_op, hnone] at hdec
    contradiction

/-- Settles O12: the two ways a step ends before it executes (R111, R113). -/
theorem stepFaultsBeforeExecuting : Obligations.StepFaultsBeforeExecuting := by
  refine fun s => ⟨step_of_pc_out, fun hpc hi lo hdec => ?_⟩
  obtain ⟨hnone, -, -⟩ := decode_eq_error.mp hdec
  exact step_of_decodeOp_none hpc hnone

/-- A step that completes has fetched an operation and had its effect (R110, R118). -/
theorem effect_of_step {s t : State} (h : step s = .next t) : ∃ i, s.fetches i ∧ Effect s i t := by
  rcases step_cases s with ⟨-, hstep⟩ | ⟨-, -, hstep⟩ | ⟨i, hi, hstep⟩
  · cases hstep.symm.trans h
  · cases hstep.symm.trans h
  · exact ⟨i, hi, effect_of_exec (hstep.symm.trans h)⟩

/-- Settles O13: each of the three ways a step goes ends in a next state or a fault (R110). -/
theorem stepNeverRefuses : Obligations.StepNeverRefuses := by
  intro s
  rcases step_cases s with ⟨-, hstep⟩ | ⟨-, -, hstep⟩ | ⟨i, -, hstep⟩
  · exact .inr ⟨_, hstep⟩
  · exact .inr ⟨_, hstep⟩
  · rcases execSpec i s with ⟨t, hexec, -⟩ | ⟨f, hexec, -⟩
    · exact .inl ⟨t, hstep.trans hexec⟩
    · exact .inr ⟨f, hstep.trans hexec⟩

/-- The fault of an operation that the step fetched has its cause in the table of R190. -/
theorem ExecFault.faultCause {s : State} {i : Instr} {f : Fault} (h : ExecFault s i f) (hi : s.fetches i) :
    FaultCause s f := by
  cases h with
  | underflow hstack => exact ⟨hi, hstack⟩
  | overflow nnn hdepth => exact ⟨⟨nnn, hi⟩, hdepth⟩
  | dump x hblock => exact ⟨x, .inl hi, hblock, rfl⟩
  | load x hblock => exact ⟨x, .inr hi, hblock, rfl⟩
  | deferred hdef => exact ⟨hdef, hi⟩
  | nativeCall nnn => exact hi

/-- A step that fetches an operation with a cause to fault raises that fault. -/
theorem step_of_execFault {s : State} {i : Instr} {f : Fault} (hi : s.fetches i) (h : ExecFault s i f) :
    step s = .fault f :=
  (step_of_fetches hi).trans h.exec_eq

/-- A fault is raised when its cause holds. -/
theorem step_of_faultCause {s : State} : ∀ {f : Fault}, FaultCause s f → step s = .fault f
  | .decodeError _ _, ⟨hpc, rfl, rfl, hill⟩ => step_of_decodeOp_none hpc ((decodeOp_eq_none _ _).mpr hill)
  | .stackUnderflow, ⟨hi, hstack⟩ => step_of_execFault hi (.underflow hstack)
  | .stackOverflow, ⟨⟨nnn, hi⟩, hdepth⟩ => step_of_execFault hi (.overflow nnn hdepth)
  | .memoryOutOfBounds _ .fetch, ⟨hpc, rfl⟩ => step_of_pc_out hpc
  | .memoryOutOfBounds _ .data, ⟨x, .inl hi, hblock, rfl⟩ => step_of_execFault hi (.dump x hblock)
  | .memoryOutOfBounds _ .data, ⟨x, .inr hi, hblock, rfl⟩ => step_of_execFault hi (.load x hblock)
  | .unimplementedOperation _, ⟨hdef, hi⟩ => step_of_execFault hi (.deferred hdef)
  | .illegalNativeCall nnn, hi => step_of_execFault hi (.nativeCall nnn)

/-- Settles O14: the step's three ways give each fault its cause, and each cause determines the step (R190, R198). -/
theorem stepFaultsExactlyWhenItsCauseHolds : Obligations.StepFaultsExactlyWhenItsCauseHolds := by
  refine fun s f => ⟨fun h => ?_, step_of_faultCause⟩
  rcases step_cases s with ⟨hpc, hstep⟩ | ⟨hpc, hnone, hstep⟩ | ⟨i, hi, hstep⟩
  · cases hstep.symm.trans h
    exact ⟨hpc, rfl⟩
  · cases hstep.symm.trans h
    exact ⟨hpc, rfl, rfl, (decodeOp_eq_none _ _).mp hnone⟩
  · exact (execFault_of_exec (hstep.symm.trans h)).faultCause hi

/-- Settles O15: a step completes exactly when it fetches an operation whose duty holds (R226). -/
theorem stepCompletesExactlyWhenSafe : Obligations.StepCompletesExactlyWhenSafe := by
  intro s
  constructor
  · rintro ⟨t, h⟩
    obtain ⟨i, hi, heff⟩ := effect_of_step h
    exact ⟨i, hi, heff.safeIn⟩
  · rintro ⟨i, hi, hsafe⟩
    rw [step_of_fetches hi]
    exact exec_next_iff_safeIn.mpr hsafe

/-- Settles O17: the twenty-three operations meet their duty everywhere (R199). -/
theorem twentyThreeOperationsNeverFault : Obligations.TwentyThreeOperationsNeverFault :=
  fun _ _ hfault => exec_next_iff_safeIn.mpr (safeIn_of_mayFault_eq_false hfault)

/-! ### The report -/

/-- The codes of R190 are 1 to 6. -/
theorem Fault.code_bounds (f : Fault) : 1 ≤ f.code ∧ f.code ≤ 6 := by
  cases f <;> simp [Fault.code]

/-- Settles O59: the table of R190. -/
theorem faultCodesAreOneToSix : Obligations.FaultCodesAreOneToSix :=
  fun _ _ _ _ _ _ => ⟨rfl, rfl, rfl, rfl, rfl, rfl⟩

/-- The report of a step that completes holds no fault and the next state (R200). -/
theorem report_of_next {s t : State} (h : step s = .next t) : report s = ⟨t, none⟩ := by
  rw [report, h]

/-- Settles O16: no step is refused, so the report is that of a next state or of a fault; the latter keeps the state,
from which the report is the same again (R197, R200, R201). -/
theorem faultReportKeepsStateAndRepeats : Obligations.FaultReportKeepsStateAndRepeats := by
  intro s
  rcases stepNeverRefuses s with ⟨t, hstep⟩ | ⟨f, hstep⟩
  · rw [report_of_next hstep]
    exact .inl ⟨rfl, hstep⟩
  · obtain ⟨hlow, hhigh⟩ := f.code_bounds
    have hreport := report_of_fault hstep
    rw [hreport]
    exact .inr ⟨f, hstep, rfl, rfl, hlow, hhigh, hreport⟩

/-! ### Goto to its own address -/

theorem exec_goto (nnn : Addr12) (s : State) : exec (.goto nnn) s = .next (s.setPc (addrOperand nnn)) := rfl

/-- Settles O18: the Goto sets `pc` to what it is (R119). -/
theorem gotoToItselfIsAFixedPoint : Obligations.GotoToItselfIsAFixedPoint := by
  intro s nnn hpc hi
  have htarget : addrOperand nnn = s.pc := BitVec.eq_of_toNat_eq (by rw [toNat_addrOperand, hpc])
  rw [State.Ended, step_of_fetches hi, exec_goto, htarget]
  rfl

end Sys2Proof.Machine
end

section

/-! # Frames: what an operation leaves unchanged (spec sections 10 and 20) -/

namespace Sys2Proof.Machine

section
variable {s t : State} {i : Instr}

/-- A register an operation is not said to write is not the one it writes. -/
theorem ne_of_writesReg {r x : RegIndex} (hr : i.writesReg r = false) (hx : i.writesReg x = true) : r ≠ x := by
  rintro rfl
  exact Bool.false_ne_true (hr.symm.trans hx)

/-- The register frame of each effect (R21, R23). -/
theorem Effect.reg_frame (h : Effect s i t) {r : RegIndex} (hr : i.writesReg r = false) : t.reg r = s.reg r := by
  cases h with
  | writeReg v _ hx => simp [ne_of_writesReg hr hx]
  | writeFlagged f v _ hx hflag => simp [ne_of_writesReg hr hx, ne_of_writesReg hr hflag]
  | randMask x nn => simp [ne_of_writesReg hr (beq_self_eq_true x)]
  | load x => simp [of_decide_eq_false hr]
  | skip c => exact State.reg_skipIf s c r
  | writeIndex | jump | call | ret | setDelay | setSound | dump => rfl

/-- DumpRegisters stores to no address below its block or above it (R162). -/
theorem storesTo_dumpRegisters_eq_false {x : RegIndex} {a : Nat} :
    (Instr.dumpRegisters x).storesTo s a = false ↔ a < s.index.toNat ∨ s.index.toNat + x.toNat < a := by
  rw [Instr.storesTo, State.blockBase, Bool.and_eq_false_iff, decide_eq_false_iff_not, decide_eq_false_iff_not,
    Nat.not_le, Nat.not_le]

/-- The memory frame of each effect: DumpRegisters leaves what lies below and above its block (R54, R162). -/
theorem Effect.readMem_frame (h : Effect s i t) {a : Nat} (ha : i.storesTo s a = false) :
    t.readMem a = s.readMem a := by
  cases h with
  | dump x =>
    have hout : a < s.blockBase ∨ s.blockBase + (s.blockRegs x).length ≤ a := by
      rw [State.length_blockRegs]
      exact storesTo_dumpRegisters_eq_false.mp ha
    exact s.readMem_writeBlock_outside (s.blockRegs x) s.blockBase a hout
  | skip c => rw [State.readMem, State.skipIf_mem, State.readMem]
  | writeReg | writeFlagged | writeIndex | jump | call | ret | randMask | setDelay | setSound | load => rfl

theorem Effect.index_frame (h : Effect s i t) (hi : i.writesIndex = false) : t.index = s.index := by
  cases h with
  | writeIndex _ _ hw => exact absurd (hi.symm.trans hw) Bool.false_ne_true
  | skip c => exact State.skipIf_index s c
  | writeReg | writeFlagged | jump | call | ret | randMask | setDelay | setSound | dump | load => rfl

theorem Effect.stack_frame (h : Effect s i t) (hi : i.writesStack = false) : t.stack = s.stack := by
  cases h with
  | call | ret => contradiction
  | skip c => exact State.skipIf_stack s c
  | writeReg | writeFlagged | writeIndex | jump | randMask | setDelay | setSound | dump | load => rfl

theorem Effect.delay_frame (h : Effect s i t) (hi : i.writesDelay = false) : t.delay = s.delay := by
  cases h with
  | setDelay => contradiction
  | skip c => exact State.skipIf_delay s c
  | writeReg | writeFlagged | writeIndex | jump | call | ret | randMask | setSound | dump | load => rfl

theorem Effect.sound_frame (h : Effect s i t) (hi : i.writesSound = false) : t.sound = s.sound := by
  cases h with
  | setSound => contradiction
  | skip c => exact State.skipIf_sound s c
  | writeReg | writeFlagged | writeIndex | jump | call | ret | randMask | setDelay | dump | load => rfl

theorem Effect.randDraws_frame (h : Effect s i t) (hi : i.drawsRandom = false) : t.randDraws = s.randDraws := by
  cases h with
  | randMask => contradiction
  | skip c => exact State.skipIf_randDraws s c
  | writeReg | writeFlagged | writeIndex | jump | call | ret | setDelay | setSound | dump | load => rfl

theorem Effect.pc_frame (h : Effect s i t) (hi : i.assignsPc = false) : t.pc = s.npc := by
  cases h with
  | jump _ _ hw | skip _ _ hw => exact absurd (hi.symm.trans hw) Bool.false_ne_true
  | call | ret => contradiction
  | writeReg | writeFlagged | writeIndex | randMask | setDelay | setSound | dump | load => rfl

end

/-- Settles O46: the register frame of the effect (R21, R23). -/
theorem registersOutsideTheDestinationAreUnchanged : Obligations.RegistersOutsideTheDestinationAreUnchanged :=
  fun _ _ _ h _ hr => (effect_of_exec h).reg_frame hr

/-- Settles O47: the memory frame of the effect (R54, R162). -/
theorem memoryOutsideTheStoreIsUnchanged : Obligations.MemoryOutsideTheStoreIsUnchanged :=
  fun _ _ _ h _ ha => (effect_of_exec h).readMem_frame ha

/-- Settles O48: the frames of the effect, field by field (R27, R31, R33, R114, R170). -/
theorem otherStateIsUnchanged : Obligations.OtherStateIsUnchanged := by
  intro i s t h
  have heff := effect_of_exec h
  exact ⟨heff.index_frame, heff.stack_frame, heff.delay_frame, heff.sound_frame, heff.randDraws_frame,
    heff.pc_frame⟩

end Sys2Proof.Machine
end

section

/-! # Invariants (spec sections 10, 20 and 60) -/

namespace Sys2Proof.Machine

/-! ### Memory and stack -/

section
variable {s t : State} {i : Instr}

/-- `State.Inv` is about memory and stack alone. -/
theorem State.Inv.congr (h : s.Inv) (hmem : t.mem = s.mem) (hstack : t.stack = s.stack) : t.Inv := by
  obtain ⟨hwf, hdepth⟩ := h
  exact ⟨hmem ▸ hwf, by rwa [State.depth, hstack]⟩

/-- Below the capacity a push keeps the bound (R31). -/
theorem State.Inv.push (h : s.Inv) (hdepth : s.depth < stackCapacity) (v : Word) : (s.push v).Inv := by
  obtain ⟨hwf, -⟩ := h
  refine ⟨hwf, ?_⟩
  rw [State.depth, State.push_stack, List.length_append]
  exact hdepth

/-- A stack without its top is shorter. -/
theorem State.Inv.pop (h : s.Inv) {rest : List Word} {v : Word} (hstack : s.stack = rest ++ [v]) :
    { s with stack := rest }.Inv := by
  obtain ⟨hwf, hdepth⟩ := h
  rw [State.depth, hstack, List.length_append] at hdepth
  exact ⟨hwf, Nat.le_of_add_right_le hdepth⟩

/-- A block stored inside memory keeps the canonical form; the check of the whole range gives the bound (R60). -/
theorem State.Inv.writeBlock (h : s.Inv) {x : RegIndex} (hblock : s.index.toNat + x.toNat ≤ 4095) :
    (s.writeBlock s.blockBase (s.blockRegs x)).Inv := by
  obtain ⟨hwf, hdepth⟩ := h
  have hlen : s.blockBase + (s.blockRegs x).length ≤ memorySize := by
    rw [State.length_blockRegs]
    exact Nat.succ_le_succ hblock
  exact ⟨Memory.wf_writeBlock s.mem (s.blockRegs x) s.blockBase hlen hwf, hdepth⟩

/-- Only a call, a return and a store touch what the invariant is about. -/
theorem Effect.keeps_inv (heff : Effect s i t) (h : s.Inv) : t.Inv := by
  cases heff with
  | call nnn hdepth => exact (h.push hdepth s.npc).congr rfl rfl
  | ret rest v hstack => exact (h.pop hstack).congr rfl rfl
  | dump x hblock => exact (h.writeBlock hblock).congr rfl rfl
  | skip c => exact h.congr (State.skipIf_mem s c) (State.skipIf_stack s c)
  | writeReg | writeFlagged | writeIndex | jump | randMask | setDelay | setSound | load => exact h.congr rfl rfl

end

/-- Settles O53: a step that completes had the effect of its operation, which keeps the invariant (R31). -/
theorem stepKeepsMemoryAndStackBounds : Obligations.StepKeepsMemoryAndStackBounds := by
  intro s t h hstep
  obtain ⟨i, -, heff⟩ := effect_of_step hstep
  exact heff.keeps_inv h

/-! ### Code addresses -/

section
variable {s t : State} {i : Instr}

/-- The advance of a state that could fetch is at most 0x1000 (R30). -/
theorem State.toNat_npc_le (h : s.canFetch) : s.npc.toNat ≤ 0x1000 := by
  rw [State.npc, BitVec.toNat_add]
  exact Nat.le_trans (Nat.mod_le _ _) (Nat.add_le_add_right h 2)

/-- A skip from a state that could fetch goes to at most 0x1002 (R30). -/
theorem State.toNat_skipIf_pc_le (h : s.canFetch) (c : Bool) : (s.skipIf c).pc.toNat ≤ 0x1002 := by
  have hnpc : (s.pc + 2#16).toNat ≤ 0x1000 := State.toNat_npc_le h
  have hskip : (s.pc + 4#16).toNat ≤ 0x1002 := by
    rw [BitVec.toNat_add]
    exact Nat.le_trans (Nat.mod_le _ _) (Nat.add_le_add_right h 4)
  rw [State.skipIf_pc]
  split
  · exact hskip
  · exact Nat.le_trans hnpc (by decide)

/-- `State.CodeInRange` asks of a state that keeps the stack only the bound on `pc`. -/
theorem State.CodeInRange.of_pc (h : s.CodeInRange) (hstack : t.stack = s.stack) (hpc : t.pc.toNat ≤ 0x10FE) :
    t.CodeInRange :=
  ⟨hpc, hstack ▸ h.2⟩

/-- A call pushes the advance, at most 0x1000, and jumps to an address operand; a return jumps to a return address
(R30, R141). -/
theorem Effect.keeps_codeInRange (heff : Effect s i t) (hfetch : s.canFetch) (h : s.CodeInRange) : t.CodeInRange := by
  have hnpc := State.toNat_npc_le hfetch
  cases heff with
  | jump target _ _ hle => exact h.of_pc rfl hle
  | skip c => exact h.of_pc (State.skipIf_stack s c) (Nat.le_trans (State.toNat_skipIf_pc_le hfetch c) (by decide))
  | call nnn =>
    obtain ⟨-, hret⟩ := h
    refine ⟨Nat.le_trans (toNat_addrOperand_le nnn) (by decide), fun r hr => ?_⟩
    rcases List.mem_append.mp hr with hold | hnew
    · exact hret r hold
    · rwa [List.mem_singleton.mp hnew]
  | ret rest v hstack =>
    obtain ⟨-, hret⟩ := h
    rw [hstack] at hret
    exact ⟨Nat.le_trans (hret v (by simp)) (by decide), fun r hr => hret r (List.mem_append_left _ hr)⟩
  | writeReg | writeFlagged | writeIndex | randMask | setDelay | setSound | dump | load =>
    exact h.of_pc rfl (Nat.le_trans hnpc (by decide))

end

/-- Settles O54: a step that completes could fetch, and its effect keeps the bounds from there (R30, R141). -/
theorem stepKeepsCodeAddressesInRange : Obligations.StepKeepsCodeAddressesInRange := by
  intro s t h hstep
  obtain ⟨i, ⟨hfetch, -⟩, heff⟩ := effect_of_step hstep
  exact heff.keeps_codeInRange hfetch h

/-! ### Reset and launch -/

theorem reset_inv : State.reset.Inv := ⟨rfl, Nat.zero_le _⟩

theorem reset_codeInRange : State.reset.CodeInRange := ⟨by decide, by simp [State.reset]⟩

/-- A host's image lists every address, in rising order (R222). -/
theorem loadImage_inv {s : State} (image : Vector Byte 4096) (h : s.depth ≤ stackCapacity) :
    (s.loadImage image).Inv :=
  ⟨cellsFrom_risesFrom 0 image.toList (by simp [memorySize]), h⟩

/-- Settles O55: the launch state is the reset state with an image (R220, R222, R224). -/
theorem resetAndLaunchMeetTheInvariants : Obligations.ResetAndLaunchMeetTheInvariants :=
  fun image _ => ⟨reset_inv, reset_codeInRange, reset_inv.congr rfl rfl, reset_codeInRange,
    loadImage_inv image (Nat.zero_le _), reset_codeInRange⟩

/-! ### Runs of host actions -/

/-- A run keeps what each of its actions keeps. -/
theorem runActions_keeps {P : State → Prop} {A : HostAction → Prop}
    (hact : ∀ a s t, A a → P s → act a s = .next t → P t) (as : List HostAction) {s t : State}
    (hall : ∀ a ∈ as, A a) (h : P s) (hrun : runActions as s = .next t) : P t := by
  induction as generalizing s with
  | nil =>
    cases hrun
    exact h
  | cons a as ih =>
    obtain ⟨ha, has⟩ := List.forall_mem_cons.mp hall
    rw [runActions] at hrun
    cases hfirst : act a s with
    | next u =>
      rw [hfirst] at hrun
      exact ih has (hact a s u ha h hfirst) hrun
    | fault f => simp [hfirst] at hrun
    | refused r => simp [hfirst] at hrun

/-- The host's push respects the capacity (R210). -/
theorem hostPush_keeps_inv {s t : State} {v : Word} (h : s.Inv) (hpush : hostPush v s = .next t) : t.Inv := by
  rw [hostPush] at hpush
  split at hpush
  case isTrue hdepth =>
    cases hpush
    exact h.push hdepth v
  case isFalse => contradiction

/-- The host's pop leaves the stack without its top (R210). -/
theorem act_pop_keeps_inv {s t : State} (h : s.Inv) (hpop : act .pop s = .next t) : t.Inv := by
  rcases stack_cases s.stack with hnil | ⟨rest, v, hstack⟩
  · rw [act, hostPop, State.pop_nil s hnil] at hpop
    contradiction
  · rw [act, hostPop, State.pop_concat s rest v hstack] at hpop
    cases hpop
    exact h.pop hstack

/-- Every host action keeps memory canonical and the depth at most 16. -/
theorem act_keeps_inv (a : HostAction) {s t : State} (h : s.Inv) (hact : act a s = .next t) : t.Inv := by
  cases a with
  | step => exact stepKeepsMemoryAndStackBounds s t h hact
  | push v => exact hostPush_keeps_inv h hact
  | pop => exact act_pop_keeps_inv h hact
  | reset =>
    cases hact
    exact reset_inv.congr rfl rfl
  | load image =>
    cases hact
    exact loadImage_inv image h.2
  | setDelay v | setSound v | setReg i v =>
    cases hact
    exact h.congr rfl rfl

/-- Settles O56: by induction over the actions of the run (R31, R210). -/
theorem hostRunsKeepMemoryAndStackBounds : Obligations.HostRunsKeepMemoryAndStackBounds :=
  fun as _ _ h hrun =>
    runActions_keeps (A := fun _ => True) (fun a _ _ _ => act_keeps_inv a) as (fun _ _ => trivial) h hrun

/-- A step and a timer write keep the code addresses in range. -/
theorem act_inRun_keeps_codeInRange (a : HostAction) (s t : State) (ha : a.inRun = true) (h : s.CodeInRange)
    (hact : act a s = .next t) : t.CodeInRange := by
  cases a with
  | step => exact stepKeepsCodeAddressesInRange s t h hact
  | setDelay v | setSound v =>
    cases hact
    exact h
  | reset | load | setReg | push | pop => contradiction

/-- Settles O57: by induction over the actions of the run, whatever the timer policy (R206). -/
theorem runsUnderAnyTimerPolicyKeepCodeInRange : Obligations.RunsUnderAnyTimerPolicyKeepCodeInRange :=
  fun as _ _ hall h hrun => runActions_keeps act_inRun_keeps_codeInRange as hall h hrun

end Sys2Proof.Machine
end

section

/-! # Noninterference (spec sections 10, 40 and 44) -/

namespace Sys2Proof.Machine

/-- The state with other values of `ST` and of the draw counter. -/
def State.withHidden (s : State) (v : Byte) (n : Nat) : State := { s with sound := v, randDraws := n }

/-- An outcome with its next state, if it has one, changed. -/
def mapNext (g : State → State) : StepResult → StepResult
  | .next t => .next (g t)
  | .fault f => .fault f
  | .refused r => .refused r

/-- The state `t` that operation `i` answers, with the values `v` and `n` of `ST` and the draw counter instead of those
that `i` did not write. -/
def hideUnwritten (i : Instr) (v : Byte) (n : Nat) (t : State) : State :=
  t.withHidden (if i.writesSound then t.sound else v) (if i.drawsRandom then t.randDraws else n)

theorem State.withHidden_skipIf (s : State) (v : Byte) (n : Nat) (c : Bool) :
    (s.withHidden v n).skipIf c = (s.skipIf c).withHidden v n := by
  cases c <;> rfl

/-- The choice between a completion and a fault, where it does not read the two hidden fields. -/
theorem mapNext_ite (g : State → State) (c : Prop) [Decidable c] (t : State) (f : Fault) :
    mapNext g (if c then .next t else raise f) = if c then .next (g t) else raise f :=
  apply_ite (mapNext g) c _ _

theorem execRet_withHidden (s : State) (v : Byte) (n : Nat) :
    execRet (s.withHidden v n) = mapNext (State.withHidden · v n) (execRet s) := by
  rcases stack_cases s.stack with hnil | ⟨rest, top, hstack⟩
  · rw [execRet, execRet, State.pop_nil s hnil, State.pop_nil (s.withHidden v n) hnil]
    rfl
  · rw [execRet, execRet, State.pop_concat s rest top hstack,
      State.pop_concat (s.withHidden v n) rest top hstack]
    rfl

/-- No operation reads `ST`, and only RandMaskIntoReg the draw counter: whichever values they have, every operation
ends alike, but for the one of the two that it writes (R33, R117, R170). -/
theorem exec_withHidden (i : Instr) (s : State) (v : Byte) (n : Nat) (hn : i.drawsRandom = true → n = s.randDraws) :
    exec i (s.withHidden v n) = mapNext (hideUnwritten i v n) (exec i s) := by
  cases i with
  | ret => exact execRet_withHidden s v n
  | subroutine nnn =>
    exact (mapNext_ite (hideUnwritten (.subroutine nnn) v n) (s.depth < stackCapacity)
      ((s.push s.npc).setPc (addrOperand nnn)) .stackOverflow).symm
  | dumpRegisters x =>
    exact (mapNext_ite (hideUnwritten (.dumpRegisters x) v n) (s.blockInBounds x = true)
      (s.writeBlock s.blockBase (s.blockRegs x)).advance (outOfBounds s.blockBase .data)).symm
  | loadRegisters x =>
    exact (mapNext_ite (hideUnwritten (.loadRegisters x) v n) (s.blockInBounds x = true)
      (s.loadBlock x).advance (outOfBounds s.blockBase .data)).symm
  | skipIfRegEqualConst | skipIfRegNotEqualConst | skipIfRegEqualReg | skipIfRegNotEqualReg =>
    exact congrArg Host.Outcome.next (s.withHidden_skipIf v n _)
  | randMaskIntoReg =>
    rw [hn rfl]
    rfl
  | _ => rfl

/-- The causes of R190 mention neither hidden field, so a step faults whatever they hold. -/
theorem step_withHidden_of_fault {s : State} {f : Fault} (h : step s = .fault f) (v : Byte) (n : Nat) :
    step (s.withHidden v n) = .fault f := by
  have hcause : FaultCause s f := (stepFaultsExactlyWhenItsCauseHolds s f).mp h
  have hsame : FaultCause (s.withHidden v n) f = FaultCause s f := by
    unfold FaultCause
    rfl
  exact step_of_faultCause (hsame ▸ hcause)

/-- A step that completes answers alike whatever the hidden fields hold, if the draw counter is the same where the
operation draws. -/
theorem step_withHidden_of_next {s t : State} (h : step s = .next t) (v : Byte) {n : Nat}
    (hn : ∀ i, s.fetches i → i.drawsRandom = true → n = s.randDraws) :
    ∃ i, s.fetches i ∧ Effect s i t ∧ step (s.withHidden v n) = .next (hideUnwritten i v n t) := by
  obtain ⟨i, hi, heff⟩ := effect_of_step h
  have hexec : exec i s = .next t := (step_of_fetches hi).symm.trans h
  have hhidden : (s.withHidden v n).fetches i := hi
  refine ⟨i, hi, heff, ?_⟩
  rw [step_of_fetches hhidden, exec_withHidden i s v n (hn i hi), hexec]
  rfl

/-- Settles O49: with the draw counter as it is, the step leaves it as the operation does (R33, R173). -/
theorem soundTimerInfluencesNothing : Obligations.SoundTimerInfluencesNothing := by
  refine fun s v => ⟨fun f h => step_withHidden_of_fault h v s.randDraws, fun t h => ?_⟩
  obtain ⟨i, -, heff, hstep⟩ := step_withHidden_of_next h v (n := s.randDraws) fun _ _ _ => rfl
  have hdraws : (if i.drawsRandom then t.randDraws else s.randDraws) = t.randDraws := by
    split
    · rfl
    · next hi => exact (heff.randDraws_frame (Bool.eq_false_of_not_eq_true hi)).symm
  rw [hideUnwritten, hdraws] at hstep
  exact ⟨_, hstep⟩

/-- Settles O50: with `ST` as it is, an operation that draws nothing leaves it so or writes it alike (R117, R170). -/
theorem randomByteInfluencesOnlyRandMask : Obligations.RandomByteInfluencesOnlyRandMask := by
  intro s n hnot
  have hdraws : ∀ i, s.fetches i → i.drawsRandom = false := by
    intro i hi
    cases i with
    | randMaskIntoReg x nn => exact absurd hi (hnot x nn)
    | _ => rfl
  refine ⟨fun f h => step_withHidden_of_fault h s.sound n, fun t h => ?_⟩
  obtain ⟨i, hi, heff, hstep⟩ := step_withHidden_of_next h s.sound (n := n) fun i hi hdraw => by
    rw [hdraws i hi] at hdraw
    contradiction
  have hsound : (if i.writesSound then t.sound else s.sound) = t.sound := by
    split
    · rfl
    · next hi => exact (heff.sound_frame (Bool.eq_false_of_not_eq_true hi)).symm
  rw [hideUnwritten, hsound, hdraws i hi] at hstep
  exact hstep

end Sys2Proof.Machine
end

section

/-! # The encoder and the opcode table (spec section 30) -/

namespace Sys2Proof

open Laws

/-! ### Decoding canonical words -/

/-- Settles O1: the round trip of each of the 35 operations (R102). -/
theorem decodeOfEncodeIsIdentity : Obligations.DecodeOfEncodeIsIdentity
  | .clearScreen => RoundTrip.clearScreen
  | .ret => RoundTrip.ret
  | .nativeCall nnn => RoundTrip.nativeCall nnn
  | .goto nnn => RoundTrip.goto nnn
  | .subroutine nnn => RoundTrip.subroutine nnn
  | .skipIfRegEqualConst x nn => RoundTrip.skipIfRegEqualConst x nn
  | .skipIfRegNotEqualConst x nn => RoundTrip.skipIfRegNotEqualConst x nn
  | .skipIfRegEqualReg x y => RoundTrip.skipIfRegEqualReg x y
  | .setRegConst x nn => RoundTrip.setRegConst x nn
  | .addRegConst x nn => RoundTrip.addRegConst x nn
  | .mov x y => RoundTrip.mov x y
  | .or x y => RoundTrip.or x y
  | .and x y => RoundTrip.and x y
  | .xor x y => RoundTrip.xor x y
  | .add x y => RoundTrip.add x y
  | .sub x y => RoundTrip.sub x y
  | .shiftRight x => RoundTrip.shiftRight x
  | .reverseSub x y => RoundTrip.reverseSub x y
  | .shiftLeft x => RoundTrip.shiftLeft x
  | .skipIfRegNotEqualReg x y => RoundTrip.skipIfRegNotEqualReg x y
  | .setIndex nnn => RoundTrip.setIndex nnn
  | .jumpWithOffsetV0 nnn => RoundTrip.jumpWithOffsetV0 nnn
  | .randMaskIntoReg x nn => RoundTrip.randMaskIntoReg x nn
  | .drawSprite x y n => RoundTrip.drawSprite x y n
  | .skipIfKeyPressed x => RoundTrip.skipIfKeyPressed x
  | .skipIfKeyNotPressed x => RoundTrip.skipIfKeyNotPressed x
  | .getDelayTimer x => RoundTrip.getDelayTimer x
  | .awaitKeyIntoReg x => RoundTrip.awaitKeyIntoReg x
  | .setDelayTimer x => RoundTrip.setDelayTimer x
  | .setSoundTimer x => RoundTrip.setSoundTimer x
  | .addRegToIndex x => RoundTrip.addRegToIndex x
  | .setIndexToGlyph x => RoundTrip.setIndexToGlyph x
  | .storeDecimalDigits x => RoundTrip.storeDecimalDigits x
  | .dumpRegisters x => RoundTrip.dumpRegisters x
  | .loadRegisters x => RoundTrip.loadRegisters x

/-! ### Canonical words as numbers -/

/-- A field with `k` bits below it is worth `2 ^ k` times its value. -/
theorem toNat_append_eq {m k : Nat} (a : BitVec m) (b : BitVec k) : (a ++ b).toNat = a.toNat * 2 ^ k + b.toNat := by
  rw [BitVec.toNat_append, ← Nat.shiftLeft_add_eq_or_of_lt b.isLt, Nat.shiftLeft_eq]

theorem toNat_formNNN (c : Nibble) (nnn : Addr12) : (formNNN c nnn).toNat = c.toNat * 0x1000 + nnn.toNat :=
  toNat_append_eq c nnn

theorem toNat_formXNN (c x : Nibble) (nn : Byte) :
    (formXNN c x nn).toNat = c.toNat * 0x1000 + x.toNat * 0x100 + nn.toNat := by
  rw [formXNN, toNat_append_eq, toNat_append_eq]
  omega

/-- Format `XNN` with the low byte for a sub-opcode. -/
theorem toNat_formXNN_sub (c x : Nibble) (sub : Byte) :
    (formXNN c x sub).toNat = c.toNat * 0x1000 + sub.toNat + x.toNat * 0x100 := by
  rw [toNat_formXNN, Nat.add_right_comm]

theorem toNat_formXYN (c x y n : Nibble) :
    (formXYN c x y n).toNat = c.toNat * 0x1000 + x.toNat * 0x100 + y.toNat * 0x10 + n.toNat := by
  rw [formXYN, toNat_append_eq, toNat_append_eq, toNat_append_eq]
  omega

/-- Format `XYN` with N for a sub-opcode. -/
theorem toNat_formXYN_sub (c x y sub : Nibble) :
    (formXYN c x y sub).toNat = c.toNat * 0x1000 + sub.toNat + x.toNat * 0x100 + y.toNat * 0x10 := by
  rw [toNat_formXYN]
  omega

/-- Settles O2: each canonical word is one of the three formats (R74, R102). -/
theorem encodeGivesTheCanonicalWords : Obligations.EncodeGivesTheCanonicalWords := fun nnn x y n nn =>
  ⟨rfl, rfl, fun _ => (toNat_formNNN 0x0#4 nnn).trans (Nat.zero_add _), toNat_formNNN 0x1#4 nnn,
    toNat_formNNN 0x2#4 nnn, toNat_formXNN 0x3#4 x nn, toNat_formXNN 0x4#4 x nn, toNat_formXYN_sub 0x5#4 x y 0x0#4,
    toNat_formXNN 0x6#4 x nn, toNat_formXNN 0x7#4 x nn, toNat_formXYN_sub 0x8#4 x y 0x0#4,
    toNat_formXYN_sub 0x8#4 x y 0x1#4, toNat_formXYN_sub 0x8#4 x y 0x2#4, toNat_formXYN_sub 0x8#4 x y 0x3#4,
    toNat_formXYN_sub 0x8#4 x y 0x4#4, toNat_formXYN_sub 0x8#4 x y 0x5#4, toNat_formXYN_sub 0x8#4 x 0x0#4 0x6#4,
    toNat_formXYN_sub 0x8#4 x y 0x7#4, toNat_formXYN_sub 0x8#4 x 0x0#4 0xE#4, toNat_formXYN_sub 0x9#4 x y 0x0#4,
    toNat_formNNN 0xA#4 nnn, toNat_formNNN 0xB#4 nnn, toNat_formXNN 0xC#4 x nn, toNat_formXYN 0xD#4 x y n,
    toNat_formXNN_sub 0xE#4 x 0x9E#8, toNat_formXNN_sub 0xE#4 x 0xA1#8, toNat_formXNN_sub 0xF#4 x 0x07#8,
    toNat_formXNN_sub 0xF#4 x 0x0A#8, toNat_formXNN_sub 0xF#4 x 0x15#8, toNat_formXNN_sub 0xF#4 x 0x18#8,
    toNat_formXNN_sub 0xF#4 x 0x1E#8, toNat_formXNN_sub 0xF#4 x 0x29#8, toNat_formXNN_sub 0xF#4 x 0x33#8,
    toNat_formXNN_sub 0xF#4 x 0x55#8, toNat_formXNN_sub 0xF#4 x 0x65#8⟩

/-! ### Classes 0, 5, 8 and 9 -/

/-- Settles O8: class 8 is its dispatch on N, which finds an operation exactly outside the seven illegal values; the
skips of classes 5 and 9 are found for every N (R82, R85, R86). -/
theorem classesFiveEightAndNineDecode : Obligations.ClassesFiveEightAndNineDecode := by
  refine ⟨fun x y => ?_, fun x y n hn => ?_, fun x y n => ⟨decode_class5 x y n, decode_class9 x y n⟩⟩
  · exact ⟨decode_class8 x y 0x0#4, decode_class8 x y 0x1#4, decode_class8 x y 0x2#4, decode_class8 x y 0x3#4,
      decode_class8 x y 0x4#4, decode_class8 x y 0x5#4, decode_class8 x y 0x6#4, decode_class8 x y 0x7#4,
      decode_class8 x y 0xE#4⟩
  · rw [decode_class8, decodeClass8_eq_none.mpr hn, decodeAnswer_none]

/-- Settles O9: the three branches of the class's dispatch (R77). -/
theorem classZeroDecodesByItsLowByte : Obligations.ClassZeroDecodesByItsLowByte :=
  fun x _ => ⟨decode_class0 x 0xE0#8, decode_class0 x 0xEE#8, decode_nativeCall x⟩

/-- Settles O10: each word is its class's format with the fields written out. -/
theorem sampleWordsDecode : Obligations.SampleWordsDecode :=
  ⟨decode_class8 6 7 4, decode_class1 0xA 0xBC, decode_classF 0xB 0x55, decode_classC 1 0x0F, decode_classD 1 2 5,
    decode_class8 1 0xF 6, decode_class0 0xF 0xEE, decode_class8 1 2 0xF⟩

/-! ### Masks, nibble by nibble -/

theorem formXNN_and (c x c' x' : Nibble) (nn nn' : Byte) :
    formXNN c x nn &&& formXNN c' x' nn' = formXNN (c &&& c') (x &&& x') (nn &&& nn') :=
  BitVec.and_append.trans (congrArg (BitVec.append · (nn &&& nn')) BitVec.and_append)

theorem formXYN_and (c x y n c' x' y' n' : Nibble) :
    formXYN c x y n &&& formXYN c' x' y' n' = formXYN (c &&& c') (x &&& x') (y &&& y') (n &&& n') :=
  BitVec.and_append.trans (congrArg₂ BitVec.append BitVec.and_append BitVec.and_append)

theorem nibble_and_ones (c : Nibble) : c &&& 0xF#4 = c := BitVec.and_allOnes

theorem byte_and_ones (b : Byte) : b &&& 0xFF#8 = b := BitVec.and_allOnes

/-- Mask 0xF0FF clears X. -/
theorem formXNN_and_F0FF (c x : Nibble) (nn : Byte) : formXNN c x nn &&& 0xF0FF#16 = formXNN c 0x0#4 nn := by
  have h := formXNN_and c x 0xF#4 0x0#4 nn 0xFF#8
  simp only [nibble_and_ones, byte_and_ones, BitVec.and_zero] at h
  exact h

/-- Mask 0xFFF0 clears N. -/
theorem formXYN_and_FFF0 (c x y n : Nibble) : formXYN c x y n &&& 0xFFF0#16 = formXYN c x y 0x0#4 := by
  have h := formXYN_and c x y n 0xF#4 0xF#4 0xF#4 0x0#4
  simp only [nibble_and_ones, BitVec.and_zero] at h
  exact h

/-- Mask 0xFF0F clears Y. -/
theorem formXYN_and_FF0F (c x y n : Nibble) : formXYN c x y n &&& 0xFF0F#16 = formXYN c x 0x0#4 n := by
  have h := formXYN_and c x y n 0xF#4 0xF#4 0x0#4 0xF#4
  simp only [nibble_and_ones, BitVec.and_zero] at h
  exact h

/-- Mask 0xF000 leaves the class. -/
theorem formXNN_and_F000 (c x : Nibble) (nn : Byte) : formXNN c x nn &&& 0xF000#16 = formXNN c 0x0#4 0x00#8 := by
  have h := formXNN_and c x 0xF#4 0x0#4 nn 0x00#8
  simp only [nibble_and_ones, BitVec.and_zero] at h
  exact h

/-- Mask 0xF00F leaves the class and N. -/
theorem formXYN_and_F00F (c x y n : Nibble) : formXYN c x y n &&& 0xF00F#16 = formXYN c 0x0#4 0x0#4 n := by
  have h := formXYN_and c x y n 0xF#4 0x0#4 0x0#4 0xF#4
  simp only [nibble_and_ones, BitVec.and_zero] at h
  exact h

/-! ### Decoded words are canonical but for the unexamined nibble -/

theorem decodeAnswer_eq_op {hi lo : Byte} {o : Option Instr} {i : Instr} :
    decodeAnswer hi lo o = .op i ↔ i ∈ o := by
  cases o <;> simp [eq_comm]

/-- What O3 says of a decoded instruction and its word. -/
def CanonicalFor (w : Word) (i : Instr) : Prop := i.wellFormed = true ∧ encode i = w &&& examinedMask i

/-- An operation with no unexamined nibble. -/
theorem canonicalFor_of_encode_eq {w : Word} {i : Instr} (hwf : i.wellFormed = true)
    (hmask : examinedMask i = 0xFFFF#16) (h : encode i = w) : CanonicalFor w i := by
  refine ⟨hwf, ?_⟩
  rw [hmask, h]
  exact BitVec.and_allOnes.symm

/-- A word `cNNN` by its address field. -/
theorem formNNN_addrField (c x : Nibble) (lo : Byte) : formNNN c (addrField x lo) = formXNN c x lo := by
  apply BitVec.eq_of_toNat_eq
  rw [toNat_formNNN, addrField, toNat_append_eq, toNat_formXNN]
  omega

/-- The low byte of an address field is the low byte of the word. -/
theorem addrField_low (x : Nibble) (lo : Byte) : (addrField x lo).extractLsb' 0 8 = lo := by
  rw [← loByte_formNNN 0x0#4, formNNN_addrField, loByte_formXNN]

theorem canonicalFor_class0 (x : Nibble) (lo : Byte) :
    CanonicalFor (formXNN 0x0#4 x lo) (decodeClass0 x lo) := by
  unfold decodeClass0
  split
  case isTrue h => exact h ▸ ⟨rfl, (formXNN_and_F0FF 0x0#4 x 0xE0#8).symm⟩
  case isFalse hE0 =>
    split
    case isTrue h => exact h ▸ ⟨rfl, (formXNN_and_F0FF 0x0#4 x 0xEE#8).symm⟩
    case isFalse hEE =>
      refine canonicalFor_of_encode_eq ?_ rfl (formNNN_addrField 0x0#4 x lo)
      simp [Instr.wellFormed, nativeCallAddrOk, addrField_low, hE0, hEE]

/-- What every outcome of a dispatch that tests its branches in turn satisfies: each branch under its test, and every
outcome of the rest. -/
theorem forall_mem_ite {α : Type} {P : α → Prop} {c : Prop} [Decidable c] {a : α} {o : Option α} (ha : c → P a)
    (ho : ∀ i ∈ o, P i) : ∀ i ∈ (if c then some a else o), P i := by
  split
  case isTrue h =>
    rintro i ⟨⟩
    exact ha h
  case isFalse => exact ho

theorem canonicalFor_class8 (x y n : Nibble) : ∀ i ∈ decodeClass8 x y n, CanonicalFor (formXYN 0x8#4 x y n) i := by
  have hfull : ∀ {i : Instr} {k : Nibble}, i.wellFormed = true → examinedMask i = 0xFFFF#16 →
      encode i = formXYN 0x8#4 x y k → n = k → CanonicalFor (formXYN 0x8#4 x y n) i := by
    rintro i k hwf hmask henc rfl
    exact canonicalFor_of_encode_eq hwf hmask henc
  have hshift : ∀ {i : Instr} {k : Nibble}, i.wellFormed = true → examinedMask i = 0xFF0F#16 →
      encode i = formXYN 0x8#4 x 0x0#4 k → n = k → CanonicalFor (formXYN 0x8#4 x y n) i := by
    rintro i k hwf hmask henc rfl
    exact ⟨hwf, by rw [hmask, henc, formXYN_and_FF0F]⟩
  exact forall_mem_ite (hfull rfl rfl rfl) <| forall_mem_ite (hfull rfl rfl rfl) <|
    forall_mem_ite (hfull rfl rfl rfl) <| forall_mem_ite (hfull rfl rfl rfl) <|
    forall_mem_ite (hfull rfl rfl rfl) <| forall_mem_ite (hfull rfl rfl rfl) <|
    forall_mem_ite (hshift rfl rfl rfl) <| forall_mem_ite (hfull rfl rfl rfl) <|
    forall_mem_ite (hshift rfl rfl rfl) <| by simp

/-- The operations selected by their whole low byte have no unexamined nibble. -/
theorem canonicalFor_lowByte {c x : Nibble} {lo k : Byte} {i : Instr} (hwf : i.wellFormed = true)
    (hmask : examinedMask i = 0xFFFF#16) (henc : encode i = formXNN c x k) (hlo : lo = k) :
    CanonicalFor (formXNN c x lo) i :=
  canonicalFor_of_encode_eq hwf hmask (hlo ▸ henc)

theorem canonicalFor_classE (x : Nibble) (lo : Byte) :
    ∀ i ∈ decodeClassE x lo, CanonicalFor (formXNN 0xE#4 x lo) i :=
  forall_mem_ite (canonicalFor_lowByte rfl rfl rfl) <| forall_mem_ite (canonicalFor_lowByte rfl rfl rfl) <| by simp

theorem canonicalFor_classF (x : Nibble) (lo : Byte) :
    ∀ i ∈ decodeClassF x lo, CanonicalFor (formXNN 0xF#4 x lo) i :=
  forall_mem_ite (canonicalFor_lowByte rfl rfl rfl) <| forall_mem_ite (canonicalFor_lowByte rfl rfl rfl) <|
    forall_mem_ite (canonicalFor_lowByte rfl rfl rfl) <| forall_mem_ite (canonicalFor_lowByte rfl rfl rfl) <|
    forall_mem_ite (canonicalFor_lowByte rfl rfl rfl) <| forall_mem_ite (canonicalFor_lowByte rfl rfl rfl) <|
    forall_mem_ite (canonicalFor_lowByte rfl rfl rfl) <| forall_mem_ite (canonicalFor_lowByte rfl rfl rfl) <|
    forall_mem_ite (canonicalFor_lowByte rfl rfl rfl) <| by simp

/-- An operation that a class's decoder answers for every word of the class. -/
theorem canonicalFor_of_decode {hi lo : Byte} {i j : Instr} (hclass : decode hi lo = .op j)
    (hj : CanonicalFor (wordOf hi lo) j) (h : decode hi lo = .op i) : CanonicalFor (wordOf hi lo) i := by
  cases hclass.symm.trans h
  exact hj

/-- Class by class, a decoded operation is canonical but for the unexamined nibble (R98, R102). -/
theorem canonicalFor_decode (hi lo : Byte) : ∀ i, decode hi lo = .op i → CanonicalFor (wordOf hi lo) i := by
  intro i
  induction hi, lo using bytes_byClass with
  | class0 x lo => exact canonicalFor_of_decode (decode_class0 x lo) (canonicalFor_class0 x lo)
  | class1 x lo =>
    exact canonicalFor_of_decode (decode_class1 x lo) (canonicalFor_of_encode_eq rfl rfl (formNNN_addrField _ x lo))
  | class2 x lo =>
    exact canonicalFor_of_decode (decode_class2 x lo) (canonicalFor_of_encode_eq rfl rfl (formNNN_addrField _ x lo))
  | class3 x lo => exact canonicalFor_of_decode (decode_class3 x lo) (canonicalFor_of_encode_eq rfl rfl rfl)
  | class4 x lo => exact canonicalFor_of_decode (decode_class4 x lo) (canonicalFor_of_encode_eq rfl rfl rfl)
  | class5 x y n => exact canonicalFor_of_decode (decode_class5 x y n) ⟨rfl, (formXYN_and_FFF0 _ x y n).symm⟩
  | class6 x lo => exact canonicalFor_of_decode (decode_class6 x lo) (canonicalFor_of_encode_eq rfl rfl rfl)
  | class7 x lo => exact canonicalFor_of_decode (decode_class7 x lo) (canonicalFor_of_encode_eq rfl rfl rfl)
  | class8 x y n =>
    rw [decode_class8, decodeAnswer_eq_op]
    exact canonicalFor_class8 x y n i
  | class9 x y n => exact canonicalFor_of_decode (decode_class9 x y n) ⟨rfl, (formXYN_and_FFF0 _ x y n).symm⟩
  | classA x lo =>
    exact canonicalFor_of_decode (decode_classA x lo) (canonicalFor_of_encode_eq rfl rfl (formNNN_addrField _ x lo))
  | classB x lo =>
    exact canonicalFor_of_decode (decode_classB x lo) (canonicalFor_of_encode_eq rfl rfl (formNNN_addrField _ x lo))
  | classC x lo => exact canonicalFor_of_decode (decode_classC x lo) (canonicalFor_of_encode_eq rfl rfl rfl)
  | classD x y n => exact canonicalFor_of_decode (decode_classD x y n) (canonicalFor_of_encode_eq rfl rfl rfl)
  | classE x lo =>
    rw [decode_classE, decodeAnswer_eq_op]
    exact canonicalFor_classE x lo i
  | classF x lo =>
    rw [decode_classF, decodeAnswer_eq_op]
    exact canonicalFor_classF x lo i

/-- Settles O3: the word is that of its two bytes (R98, R102). -/
theorem decodedWordIsCanonicalUpToUnexaminedNibble : Obligations.DecodedWordIsCanonicalUpToUnexaminedNibble := by
  intro w i h
  have hcanon := canonicalFor_decode (hiByte w) (loByte w) i h
  rwa [wordOf, bytes_append] at hcanon

end Sys2Proof
end

section

/-! # The opcode table (spec section 30) -/

namespace Sys2Proof

/-- The class that a row's pattern names: its top nibble. -/
def OpcodeRow.cls (r : OpcodeRow) : Nibble := hiNibble (hiByte r.pattern)

/-- The mnemonic of the first of some rows that a word matches. -/
def firstMnemonic (rows : List OpcodeRow) (w : Word) : Option String := (rows.find? (·.covers w)).map (·.mnemonic)

/-- The rows of one class, in their order. -/
def rowsOfClass (c : Nibble) : List OpcodeRow := opcodeTable.filter (·.cls = c)

@[simp] theorem firstMnemonic_nil (w : Word) : firstMnemonic [] w = none := rfl

theorem firstMnemonic_cons (r : OpcodeRow) (rows : List OpcodeRow) (w : Word) :
    firstMnemonic (r :: rows) w = if r.covers w then some r.mnemonic else firstMnemonic rows w := by
  rw [firstMnemonic, List.find?_cons]
  cases h : r.covers w <;> simp [firstMnemonic]

/-- Every mask of the table keeps the class. -/
theorem mask_keeps_class : ∀ r ∈ opcodeTable, hiNibble (hiByte r.mask) = 0xF#4 := by decide

theorem hiByte_and (v w : Word) : hiByte (v &&& w) = hiByte v &&& hiByte w := BitVec.extractLsb'_and
theorem hiNibble_and (a b : Byte) : hiNibble (a &&& b) = hiNibble a &&& hiNibble b := BitVec.extractLsb'_and

/-- A word matches rows of its own class only. -/
theorem cls_of_covers {r : OpcodeRow} (hr : r ∈ opcodeTable) {w : Word} (h : r.covers w = true) :
    r.cls = hiNibble (hiByte w) := by
  rw [OpcodeRow.covers, beq_iff_eq] at h
  rw [OpcodeRow.cls, ← h, hiByte_and, hiNibble_and, mask_keeps_class r hr, nibble_and_ones]

/-- The table's answer is the answer of the rows of the word's class. -/
theorem tableMnemonic_eq (w : Word) : tableMnemonic w = firstMnemonic (rowsOfClass (hiNibble (hiByte w))) w := by
  rw [tableMnemonic, firstMnemonic, rowsOfClass, List.find?_filter]
  congr 1
  apply List.find?_congr
  intro r hr
  cases hcovers : r.covers w with
  | false => simp
  | true => simp [cls_of_covers hr hcovers]

/-! ### The rows by their masks -/

/-- A row with mask 0xF000 matches every word of its class. -/
theorem covers_classRow (name : String) (c x : Nibble) (lo : Byte) :
    (OpcodeRow.mk name 0xF000#16 (formXNN c 0x0#4 0x00#8)).covers (formXNN c x lo) = true := by
  rw [OpcodeRow.covers, formXNN_and_F000, beq_self_eq_true]

/-- A row with mask 0xF00F selects by N. -/
theorem covers_nRow (name : String) (c x y n k : Nibble) :
    (OpcodeRow.mk name 0xF00F#16 (formXYN c 0x0#4 0x0#4 k)).covers (formXYN c x y n) = true ↔ n = k := by
  rw [OpcodeRow.covers, formXYN_and_F00F, beq_iff_eq]
  exact (BitVec.append_right_inj _).trans (BitVec.append_right_inj _)

/-- A row with mask 0xF0FF selects by the low byte. -/
theorem covers_lowByteRow (name : String) (c x : Nibble) (lo k : Byte) :
    (OpcodeRow.mk name 0xF0FF#16 (formXNN c 0x0#4 k)).covers (formXNN c x lo) = true ↔ lo = k := by
  rw [OpcodeRow.covers, formXNN_and_F0FF, beq_iff_eq]
  exact BitVec.append_right_inj _

/-! ### The rows of the classes with a dispatch -/

theorem rowsOfClass_0 : rowsOfClass 0x0#4 =
    [⟨"ClearScreen", 0xF0FF#16, formXNN 0x0#4 0x0#4 0xE0#8⟩, ⟨"Return", 0xF0FF#16, formXNN 0x0#4 0x0#4 0xEE#8⟩,
     ⟨"NativeCall", 0xF000#16, formXNN 0x0#4 0x0#4 0x00#8⟩] := by decide

theorem rowsOfClass_8 : rowsOfClass 0x8#4 =
    [⟨"Mov", 0xF00F#16, formXYN 0x8#4 0x0#4 0x0#4 0x0#4⟩, ⟨"Or", 0xF00F#16, formXYN 0x8#4 0x0#4 0x0#4 0x1#4⟩,
     ⟨"And", 0xF00F#16, formXYN 0x8#4 0x0#4 0x0#4 0x2#4⟩, ⟨"Xor", 0xF00F#16, formXYN 0x8#4 0x0#4 0x0#4 0x3#4⟩,
     ⟨"Add", 0xF00F#16, formXYN 0x8#4 0x0#4 0x0#4 0x4#4⟩, ⟨"Sub", 0xF00F#16, formXYN 0x8#4 0x0#4 0x0#4 0x5#4⟩,
     ⟨"ShiftRight", 0xF00F#16, formXYN 0x8#4 0x0#4 0x0#4 0x6#4⟩,
     ⟨"ReverseSub", 0xF00F#16, formXYN 0x8#4 0x0#4 0x0#4 0x7#4⟩,
     ⟨"ShiftLeft", 0xF00F#16, formXYN 0x8#4 0x0#4 0x0#4 0xE#4⟩] := by decide

theorem rowsOfClass_E : rowsOfClass 0xE#4 =
    [⟨"SkipIfKeyPressed", 0xF0FF#16, formXNN 0xE#4 0x0#4 0x9E#8⟩,
     ⟨"SkipIfKeyNotPressed", 0xF0FF#16, formXNN 0xE#4 0x0#4 0xA1#8⟩] := by decide

theorem rowsOfClass_F : rowsOfClass 0xF#4 =
    [⟨"GetDelayTimer", 0xF0FF#16, formXNN 0xF#4 0x0#4 0x07#8⟩,
     ⟨"AwaitKeyIntoReg", 0xF0FF#16, formXNN 0xF#4 0x0#4 0x0A#8⟩,
     ⟨"SetDelayTimer", 0xF0FF#16, formXNN 0xF#4 0x0#4 0x15#8⟩,
     ⟨"SetSoundTimer", 0xF0FF#16, formXNN 0xF#4 0x0#4 0x18#8⟩,
     ⟨"AddRegToIndex", 0xF0FF#16, formXNN 0xF#4 0x0#4 0x1E#8⟩,
     ⟨"SetIndexToGlyph", 0xF0FF#16, formXNN 0xF#4 0x0#4 0x29#8⟩,
     ⟨"StoreDecimalDigits", 0xF0FF#16, formXNN 0xF#4 0x0#4 0x33#8⟩,
     ⟨"DumpRegisters", 0xF0FF#16, formXNN 0xF#4 0x0#4 0x55#8⟩,
     ⟨"LoadRegisters", 0xF0FF#16, formXNN 0xF#4 0x0#4 0x65#8⟩] := by decide

/-! ### Decoder and table -/

theorem mnemonic_decodeAnswer (hi lo : Byte) (o : Option Instr) :
    (decodeAnswer hi lo o).mnemonic = o.map Instr.mnemonic := by
  cases o <;> rfl

/-- The decoder and the table agree on the words of a class with one row, whose mnemonic the class decodes to. -/
theorem mnemonic_eq_of_oneRow {c x : Nibble} {lo : Byte} {i : Instr} (hdec : decode (c ++ x) lo = .op i)
    (hrows : rowsOfClass c = [⟨i.mnemonic, 0xF000#16, formXNN c 0x0#4 0x00#8⟩]) :
    (decode (c ++ x) lo).mnemonic = firstMnemonic (rowsOfClass c) (formXNN c x lo) := by
  rw [hdec, hrows, firstMnemonic_cons, if_pos (covers_classRow ..)]
  rfl

/-- One test of a dispatch, by the mnemonic of what it answers. -/
theorem map_mnemonic_ite (c : Prop) [Decidable c] (i : Instr) (o : Option Instr) :
    (if c then some i else o).map Instr.mnemonic = if c then some i.mnemonic else o.map Instr.mnemonic :=
  apply_ite (Option.map Instr.mnemonic) c (some i) o

theorem mnemonic_class0 (x : Nibble) (lo : Byte) :
    some (decodeClass0 x lo).mnemonic = firstMnemonic (rowsOfClass 0x0#4) (formXNN 0x0#4 x lo) := by
  rw [decodeClass0, apply_ite Instr.mnemonic, apply_ite Instr.mnemonic]
  simp only [rowsOfClass_0, firstMnemonic_cons, covers_lowByteRow, covers_classRow, if_true, apply_ite some,
    Instr.mnemonic]

theorem mnemonic_class8 (x y n : Nibble) :
    (decodeClass8 x y n).map Instr.mnemonic = firstMnemonic (rowsOfClass 0x8#4) (formXYN 0x8#4 x y n) := by
  simp only [decodeClass8, rowsOfClass_8, firstMnemonic_cons, firstMnemonic_nil, covers_nRow, map_mnemonic_ite,
    Instr.mnemonic, Option.map_none]

theorem mnemonic_classE (x : Nibble) (lo : Byte) :
    (decodeClassE x lo).map Instr.mnemonic = firstMnemonic (rowsOfClass 0xE#4) (formXNN 0xE#4 x lo) := by
  simp only [decodeClassE, rowsOfClass_E, firstMnemonic_cons, firstMnemonic_nil, covers_lowByteRow,
    map_mnemonic_ite, Instr.mnemonic, Option.map_none]

theorem mnemonic_classF (x : Nibble) (lo : Byte) :
    (decodeClassF x lo).map Instr.mnemonic = firstMnemonic (rowsOfClass 0xF#4) (formXNN 0xF#4 x lo) := by
  simp only [decodeClassF, rowsOfClass_F, firstMnemonic_cons, firstMnemonic_nil, covers_lowByteRow,
    map_mnemonic_ite, Instr.mnemonic, Option.map_none]

/-- The decoder and the rows of the class name the same operation, test by test in the same order (R100). -/
theorem mnemonic_decode (hi lo : Byte) :
    (decode hi lo).mnemonic = firstMnemonic (rowsOfClass (hiNibble hi)) (wordOf hi lo) := by
  induction hi, lo using bytes_byClass <;> rw [hiNibble_append]
  case class0 x lo =>
    rw [decode_class0]
    exact mnemonic_class0 x lo
  case class8 x y n =>
    rw [decode_class8, mnemonic_decodeAnswer]
    exact mnemonic_class8 x y n
  case classE x lo =>
    rw [decode_classE, mnemonic_decodeAnswer]
    exact mnemonic_classE x lo
  case classF x lo =>
    rw [decode_classF, mnemonic_decodeAnswer]
    exact mnemonic_classF x lo
  case class1 x lo => exact mnemonic_eq_of_oneRow (decode_class1 x lo) rfl
  case class2 x lo => exact mnemonic_eq_of_oneRow (decode_class2 x lo) rfl
  case class3 x lo => exact mnemonic_eq_of_oneRow (decode_class3 x lo) rfl
  case class4 x lo => exact mnemonic_eq_of_oneRow (decode_class4 x lo) rfl
  case class5 x y n => exact mnemonic_eq_of_oneRow (decode_class5 x y n) rfl
  case class6 x lo => exact mnemonic_eq_of_oneRow (decode_class6 x lo) rfl
  case class7 x lo => exact mnemonic_eq_of_oneRow (decode_class7 x lo) rfl
  case class9 x y n => exact mnemonic_eq_of_oneRow (decode_class9 x y n) rfl
  case classA x lo => exact mnemonic_eq_of_oneRow (decode_classA x lo) rfl
  case classB x lo => exact mnemonic_eq_of_oneRow (decode_classB x lo) rfl
  case classC x lo => exact mnemonic_eq_of_oneRow (decode_classC x lo) rfl
  case classD x y n => exact mnemonic_eq_of_oneRow (decode_classD x y n) rfl

/-- Settles O5: the table's answer is that of the rows of the word's class, which is the decoder's (R100). -/
theorem decoderAgreesWithTheOpcodeTable : Obligations.DecoderAgreesWithTheOpcodeTable := by
  intro w
  have hword : wordOf (hiByte w) (loByte w) = w := bytes_append w
  rw [decodeWord, mnemonic_decode, hword, tableMnemonic_eq]

end Sys2Proof
end

section

/-! # The ALU and register instructions (spec section 41): flags and results -/

namespace Sys2Proof.Machine

/-! ### Results and flags as numbers -/

/-- The difference modulo 256 (R120, R123, R124). -/
theorem toNat_subResult (a b : Byte) : ((subResult a b).toNat : Int) = (a.toNat - b.toNat : Int) % 256 := by
  have ha := a.isLt
  have hb := b.isLt
  rw [subResult, BitVec.toNat_sub]
  omega

theorem toNat_shiftRightResult (a : Byte) : (shiftRightResult a).toNat = a.toNat / 2 := by
  rw [shiftRightResult, BitVec.toNat_ushiftRight, Nat.shiftRight_eq_div_pow]

theorem toNat_shiftLeftResult (a : Byte) : (shiftLeftResult a).toNat = a.toNat * 2 % 256 := by
  rw [shiftLeftResult, BitVec.toNat_shiftLeft, Nat.shiftLeft_eq]

theorem flagByte_decide (p : Prop) [Decidable p] : flagByte (decide p) = if p then 1 else 0 := by
  by_cases hp : p <;> simp [flagByte, hp]

/-- A flag as a number is its bit. -/
theorem toNat_flagByte (c : Bool) : (flagByte c).toNat = c.toNat := by
  cases c <;> rfl

/-- The bit ShiftRight shifts out (R129). -/
theorem toNat_shiftRightFlag (a : Byte) : (shiftRightFlag a).toNat = a.toNat % 2 := by
  rw [shiftRightFlag, toNat_flagByte, BitVec.getLsbD, Nat.toNat_testBit, Nat.pow_zero, Nat.div_one]

/-- The bit ShiftLeft shifts out (R130). -/
theorem toNat_shiftLeftFlag (a : Byte) : (shiftLeftFlag a).toNat = a.toNat / 128 := by
  have ha := a.isLt
  rw [shiftLeftFlag, toNat_flagByte, BitVec.getLsbD, Nat.toNat_testBit]
  omega

/-! ### The flag-writing operations -/

/-- What a flag-writing operation leaves: the result in `x[X]`, the flag in `x[15]` if that is another register, and
the advance (R114, R121). -/
theorem writeFlagged_spec (x : RegIndex) (f v : Byte) (s : State) :
    ∃ t, writeFlagged x f v s = .next t ∧ t.reg x = v ∧ (x ≠ flagReg → t.reg flagReg = f) ∧ t.pc = s.pc + 2 := by
  refine ⟨_, rfl, ?_, fun hx => ?_, rfl⟩
  · rw [State.reg_advance, State.reg_setFlagAndResult, if_pos rfl]
  · rw [State.reg_advance, State.reg_setFlagAndResult, if_neg (Ne.symm hx), if_pos rfl]

/-- Settles O19: the result is the byte sum, the flag its carry (R122). -/
theorem addStoresSumAndCarry : Obligations.AddStoresSumAndCarry := by
  intro x y s
  obtain ⟨t, hexec, hres, hflag, hpc⟩ :=
    writeFlagged_spec x (addFlag (s.reg x) (s.reg y)) (addResult (s.reg x) (s.reg y)) s
  refine ⟨t, hexec, ?_, fun hx => ?_, hpc⟩
  · rw [hres, toNat_addResult]
  · rw [hflag hx, addFlag, flagByte_decide]

/-- Settles O20: the result is the byte difference, the flag the absence of a borrow (R123). -/
theorem subStoresDifferenceAndNoBorrow : Obligations.SubStoresDifferenceAndNoBorrow := by
  intro x y s
  obtain ⟨t, hexec, hres, hflag, hpc⟩ :=
    writeFlagged_spec x (noBorrowFlag (s.reg x) (s.reg y)) (subResult (s.reg x) (s.reg y)) s
  refine ⟨t, hexec, ?_, fun hx => ?_, hpc⟩
  · rw [hres, toNat_subResult]
  · rw [hflag hx, noBorrowFlag, flagByte_decide]

/-- Settles O21: as for Sub with the operands exchanged (R124). -/
theorem reverseSubStoresDifferenceAndNoBorrow : Obligations.ReverseSubStoresDifferenceAndNoBorrow := by
  intro x y s
  obtain ⟨t, hexec, hres, hflag, hpc⟩ :=
    writeFlagged_spec x (noBorrowFlag (s.reg y) (s.reg x)) (subResult (s.reg y) (s.reg x)) s
  refine ⟨t, hexec, ?_, fun hx => ?_, hpc⟩
  · rw [hres, toNat_subResult]
  · rw [hflag hx, noBorrowFlag, flagByte_decide]

/-- Settles O22: the result is the half, the flag the old bit 0 (R129). -/
theorem shiftRightHalvesAndStoresBitOut : Obligations.ShiftRightHalvesAndStoresBitOut := by
  intro x s
  obtain ⟨t, hexec, hres, hflag, hpc⟩ :=
    writeFlagged_spec x (shiftRightFlag (s.reg x)) (shiftRightResult (s.reg x)) s
  refine ⟨t, hexec, ?_, fun hx => ?_, hpc⟩
  · rw [hres, toNat_shiftRightResult]
  · rw [hflag hx, toNat_shiftRightFlag]

/-- Settles O23: the result is the double, the flag the old bit 7 (R130). -/
theorem shiftLeftDoublesAndStoresBitOut : Obligations.ShiftLeftDoublesAndStoresBitOut := by
  intro x s
  obtain ⟨t, hexec, hres, hflag, hpc⟩ :=
    writeFlagged_spec x (shiftLeftFlag (s.reg x)) (shiftLeftResult (s.reg x)) s
  refine ⟨t, hexec, ?_, fun hx => ?_, hpc⟩
  · rw [hres, toNat_shiftLeftResult]
  · rw [hflag hx, toNat_shiftLeftFlag]

/-- Settles O29: the result clauses of O19 to O23 do not ask that X is another register than 15 (R121). -/
theorem resultReplacesFlagInRegisterFifteen : Obligations.ResultReplacesFlagInRegisterFifteen := by
  intro y s
  obtain ⟨ta, hadd, hsum, -⟩ := addStoresSumAndCarry flagReg y s
  obtain ⟨tb, hsub, hdiff, -⟩ := subStoresDifferenceAndNoBorrow flagReg y s
  obtain ⟨tc, hrsub, hrdiff, -⟩ := reverseSubStoresDifferenceAndNoBorrow flagReg y s
  obtain ⟨td, hshr, hhalf, -⟩ := shiftRightHalvesAndStoresBitOut flagReg s
  obtain ⟨te, hshl, hdouble, -⟩ := shiftLeftDoublesAndStoresBitOut flagReg s
  exact ⟨⟨ta, hadd, hsum⟩, ⟨tb, hsub, hdiff⟩, ⟨tc, hrsub, hrdiff⟩, ⟨td, hshr, hhalf⟩, ⟨te, hshl, hdouble⟩⟩

/-- The five operations with a flag destination write a flag byte and a result (R23, R24). -/
theorem exec_of_flagDest {i : Instr} {x : RegIndex} (h : i.flagDest = some x) (s : State) :
    ∃ c v, exec i s = writeFlagged x (flagByte c) v s := by
  unfold Instr.flagDest at h
  split at h <;> cases h
  all_goals exact ⟨_, _, rfl⟩

/-- Settles O28: the flag written is the byte of a Boolean (R24). -/
theorem flagIsAWholeByteZeroOrOne : Obligations.FlagIsAWholeByteZeroOrOne := by
  intro i x s t hdest hx h
  obtain ⟨c, v, hexec⟩ := exec_of_flagDest hdest s
  obtain ⟨u, hu, -, hflag, -⟩ := writeFlagged_spec x (flagByte c) v s
  cases (hu.symm.trans hexec.symm).trans h
  rw [hflag hx]
  cases c with
  | false => exact .inl rfl
  | true => exact .inr rfl

/-! ### The operations that write one register -/

/-- What an operation that writes one register leaves (R114, R125 to R128, R131). -/
theorem writeReg_spec (x : RegIndex) (v : Byte) (s : State) :
    ∃ t, writeReg x v s = .next t ∧ t.pc = s.pc + 2 ∧ ∀ r, t.reg r = if r = x then v else s.reg r :=
  ⟨_, rfl, rfl, fun r => State.reg_setReg s x r v⟩

/-- Settles O25: SetRegConst writes one register (R131). -/
theorem setRegConstWritesTheConstant : Obligations.SetRegConstWritesTheConstant := writeReg_spec

/-- What `writeReg_spec` says of `x[X]` and, if that is another register, of `x[15]`. -/
theorem writeReg_spec_flag (x : RegIndex) (v : Byte) (s : State) :
    ∃ t, writeReg x v s = .next t ∧ t.pc = s.pc + 2 ∧ (x ≠ flagReg → t.reg flagReg = s.reg flagReg) ∧ t.reg x = v := by
  obtain ⟨t, hexec, hpc, hreg⟩ := writeReg_spec x v s
  refine ⟨t, hexec, hpc, fun hx => ?_, ?_⟩
  · rw [hreg, if_neg (Ne.symm hx)]
  · rw [hreg, if_pos rfl]

/-- Settles O24: each of the four writes its result, and that bit by bit (R125 to R128). -/
theorem bitwiseOperationsWriteX : Obligations.BitwiseOperationsWriteX := by
  intro x y s
  refine ⟨?mov, ?or, ?and, ?xor⟩
  case mov =>
    obtain ⟨t, hexec, hpc, hflag, hreg⟩ := writeReg_spec_flag x (s.reg y) s
    exact ⟨t, hexec, hreg, hpc, hflag⟩
  case or =>
    obtain ⟨t, hexec, hpc, hflag, hreg⟩ := writeReg_spec_flag x (s.reg x ||| s.reg y) s
    exact ⟨t, hexec, hpc, hflag, fun b => by rw [hreg, BitVec.getLsbD_or]⟩
  case and =>
    obtain ⟨t, hexec, hpc, hflag, hreg⟩ := writeReg_spec_flag x (s.reg x &&& s.reg y) s
    exact ⟨t, hexec, hpc, hflag, fun b => by rw [hreg, BitVec.getLsbD_and]⟩
  case xor =>
    obtain ⟨t, hexec, hpc, hflag, hreg⟩ := writeReg_spec_flag x (s.reg x ^^^ s.reg y) s
    exact ⟨t, hexec, hpc, hflag, fun b => by rw [hreg, BitVec.getLsbD_xor]⟩

end Sys2Proof.Machine
end

section

/-! # Control flow (spec section 42) -/

namespace Sys2Proof.Machine

/-- Settles O30: the word `1NNN` is Goto's canonical word; the one write is of `pc` (R140). -/
theorem gotoSetsPc : Obligations.GotoSetsPc := by
  intro nnn s
  refine ⟨Laws.RoundTrip.goto nnn rfl, _, exec_goto nnn s, rfl, toNat_addrOperand nnn, fun hnnn => ?_⟩
  subst hnnn
  exact step_of_pc_out (show 0xFFE < (addrOperand 0xFFF#12).toNat by decide)

/-- Settles O31: the depth decides between the two outcomes of Subroutine (R141, R193). -/
theorem subroutinePushesAndJumps : Obligations.SubroutinePushesAndJumps := by
  intro nnn s
  refine ⟨fun hdepth => ?_, fun hdepth => (ExecFault.overflow nnn hdepth).exec_eq⟩
  rcases execSubroutine_cases nnn s with ⟨-, hexec⟩ | ⟨hfull, -⟩
  · exact ⟨_, hexec, rfl, toNat_addrOperand nnn⟩
  · exact absurd hdepth (Nat.not_lt_of_le hfull)

/-- Return with a top on the stack takes it into `pc` (R142). -/
theorem exec_ret_of_top {s : State} {rest : List Word} {v : Word} (hstack : s.stack = rest ++ [v]) :
    exec .ret s = .next { s with pc := v, stack := rest } := by
  rw [exec, execRet, State.pop_concat s rest v hstack]
  rfl

/-- Settles O32: the stack decides between the two outcomes of Return (R142, R192). -/
theorem returnPopsIntoPc : Obligations.ReturnPopsIntoPc :=
  ⟨fun _ _ _ hstack => ⟨_, exec_ret_of_top hstack, rfl, fun hout => step_of_pc_out hout⟩,
    fun _ hstack => (ExecFault.underflow hstack).exec_eq⟩

/-- Settles O33: the call left its `pc + 2` on top of the stack it found (R141, R142, R149). -/
theorem returnAfterCallRestoresPcAndStack : Obligations.ReturnAfterCallRestoresPcAndStack := by
  intro nnn s t u hcall hstack
  cases effect_of_exec hcall with
  | call => exact ⟨_, exec_ret_of_top hstack, rfl, rfl⟩
  | writeReg | writeFlagged | writeIndex | jump | skip => contradiction

/-- Settles O34: the word `BNNN` is the jump's canonical word; the one write is of the exact sum (R143). -/
theorem jumpWithOffsetAddsRegisterZero : Obligations.JumpWithOffsetAddsRegisterZero :=
  fun nnn s => ⟨Laws.RoundTrip.jumpWithOffsetV0 nnn rfl, _, rfl, rfl, s.toNat_offsetTarget nnn,
    fun hout => step_of_pc_out hout⟩

/-- A skip changes `pc` alone, by 4 or by 2 (R115). -/
theorem next_skipIf (s : State) {p : Prop} [Decidable p] {c : Bool} (hc : c = true ↔ p) :
    (.next (s.skipIf c) : StepResult) = .next { s with pc := if p then s.pc + 4 else s.pc + 2 } := by
  have hpc : (s.skipIf c).pc = if p then s.pc + 4 else s.pc + 2 := by simp only [State.skipIf_pc, hc]; rfl
  rw [← hpc]
  cases c <;> rfl

/-- Settles O35: each skip is `State.skipIf` of its condition; with X = Y the condition is decided (R144 to R147). -/
theorem skipsAdvanceByFourOrTwo : Obligations.SkipsAdvanceByFourOrTwo := by
  intro x y nn s
  have heq : ∀ z, exec (.skipIfRegEqualReg x z) s =
      .next { s with pc := if s.reg x = s.reg z then s.pc + 4 else s.pc + 2 } := fun z => next_skipIf s beq_iff_eq
  have hne : ∀ z, exec (.skipIfRegNotEqualReg x z) s =
      .next { s with pc := if s.reg x ≠ s.reg z then s.pc + 4 else s.pc + 2 } := fun z => next_skipIf s bne_iff_ne
  refine ⟨next_skipIf s beq_iff_eq, next_skipIf s bne_iff_ne, heq y, hne y, ?_, ?_⟩
  · rw [heq, if_pos rfl]
  · rw [hne, if_neg (fun hxx => hxx rfl)]

end Sys2Proof.Machine
end

section

/-! # Index, block transfers, random byte and timers (spec sections 43 to 45) -/

namespace Sys2Proof.Machine

/-- Settles O37: AddRegToIndex adds in 16 bits and advances (R161). -/
theorem addRegToIndexWrapsAtSixteenBits : Obligations.AddRegToIndexWrapsAtSixteenBits := by
  intro x s
  have hwide : (s.regWide x).toNat = (s.reg x).toNat := BitVec.toNat_setWidth_of_le (by decide)
  refine ⟨_, rfl, ?_, fun _ => rfl, rfl⟩
  rw [State.advance_index, State.setIndexReg_index, BitVec.toNat_add, hwide]

/-! ### Block transfers -/

/-- With its block in memory, DumpRegisters stores it (R162). -/
theorem exec_dumpRegisters_of_le {x : RegIndex} {s : State} (hblock : s.index.toNat + x.toNat ≤ 4095) :
    exec (.dumpRegisters x) s = .next (s.writeBlock s.blockBase (s.blockRegs x)).advance :=
  ((execDumpRegisters_cases x s).resolve_right fun ⟨hlt, _⟩ => Nat.not_lt_of_le hblock hlt).2

/-- With its block in memory, LoadRegisters loads it (R163). -/
theorem exec_loadRegisters_of_le {x : RegIndex} {s : State} (hblock : s.index.toNat + x.toNat ≤ 4095) :
    exec (.loadRegisters x) s = .next (s.loadBlock x).advance :=
  ((execLoadRegisters_cases x s).resolve_right fun ⟨hlt, _⟩ => Nat.not_lt_of_le hblock hlt).2

/-- Byte `I + j` of the stored block is `x[j]` (R162). -/
theorem readMem_writeBlock_blockRegs (s : State) {x j : RegIndex} (hj : j.toNat ≤ x.toNat) :
    (s.writeBlock s.blockBase (s.blockRegs x)).readMem (s.index.toNat + j.toNat) = s.reg j := by
  have hlt : j.toNat < (s.blockRegs x).length := by
    rw [State.length_blockRegs]
    exact Nat.lt_succ_of_le hj
  exact (s.readMem_writeBlock_inside (s.blockRegs x) s.blockBase j.toNat hlt).trans (s.getElem_blockRegs x j hlt)

/-- What DumpRegisters has stored where it answered a next state. -/
theorem readMem_of_exec_dumpRegisters {x : RegIndex} {s t : State} (h : exec (.dumpRegisters x) s = .next t)
    {j : RegIndex} (hj : j.toNat ≤ x.toNat) : t.readMem (s.index.toNat + j.toNat) = s.reg j := by
  cases effect_of_exec h with
  | dump => exact readMem_writeBlock_blockRegs s hj
  | writeReg | writeFlagged | writeIndex | jump | skip => contradiction

/-- Settles O38: the block is stored, the frames keep the rest, and out of memory the operation faults (R162). -/
theorem dumpRegistersStoresTheBlock : Obligations.DumpRegistersStoresTheBlock := by
  refine fun x s => ⟨fun hblock => ?_, fun hout => (ExecFault.dump x hout).exec_eq⟩
  have hexec := exec_dumpRegisters_of_le hblock
  have heff := effect_of_exec hexec
  exact ⟨_, hexec, fun j hj => readMem_of_exec_dumpRegisters hexec hj,
    fun a ha => heff.readMem_frame (storesTo_dumpRegisters_eq_false.mpr ha), heff.index_frame rfl,
    heff.pc_frame rfl⟩

/-- Settles O39: the block is loaded, the frames keep the rest, and out of memory the operation faults (R163). -/
theorem loadRegistersReadsTheBlock : Obligations.LoadRegistersReadsTheBlock := by
  refine fun x s => ⟨fun hblock => ?_, fun hout => (ExecFault.load x hout).exec_eq⟩
  have hexec := exec_loadRegisters_of_le hblock
  have heff := effect_of_exec hexec
  exact ⟨_, hexec, State.reg_loadBlock s x, fun _ => heff.readMem_frame rfl, heff.index_frame rfl,
    heff.pc_frame rfl⟩

/-- Settles O40: the dump completed, so the same block is in memory for the load, which reads the stored bytes
(R165). -/
theorem loadAfterDumpRestoresRegisters : Obligations.LoadAfterDumpRestoresRegisters := by
  intro x s t u hdump hindex hkept
  have hblock : s.index.toNat + x.toNat ≤ 4095 := (effect_of_exec hdump).safeIn
  rw [← hindex] at hblock
  obtain ⟨hload, -⟩ := loadRegistersReadsTheBlock x u
  obtain ⟨v, hexec, hreg, -⟩ := hload hblock
  refine ⟨v, hexec, fun j hj => ?_⟩
  rw [hreg, if_pos hj, hindex, hkept _ (Nat.le_add_right ..) (Nat.add_le_add_left hj _)]
  exact readMem_of_exec_dumpRegisters hdump hj

/-- Settles O41: the next step fetches the two stored registers (R67). -/
theorem nextFetchSeesTheStore : Obligations.NextFetchSeesTheStore := by
  intro x j k s t i hdump hpc hk hkx hdec
  have heff := effect_of_exec hdump
  have hblock : s.index.toNat + x.toNat ≤ 4095 := heff.safeIn
  have htpc : t.pc.toNat = s.index.toNat + j.toNat := by
    rw [heff.pc_frame rfl, State.npc, BitVec.toNat_add, ← hpc]
    exact Nat.mod_eq_of_lt (show s.pc.toNat + 2 < 2 ^ 16 by omega)
  have hhi : t.nextHi = s.reg j := by
    rw [State.nextHi, htpc]
    exact readMem_of_exec_dumpRegisters hdump (by omega)
  have hlo : t.nextLo = s.reg k := by
    rw [State.nextLo, htpc, Nat.add_assoc, ← hk]
    exact readMem_of_exec_dumpRegisters hdump hkx
  refine step_of_fetches ⟨?_, ?_⟩
  · rw [State.canFetch, htpc]
    omega
  · rw [hhi, hlo, hdec]

/-! ### Random byte, timers and deferred operations -/

/-- Settles O42: the drawn byte is masked bit by bit (R170). -/
theorem randMaskStoresAMaskedByte : Obligations.RandMaskStoresAMaskedByte := by
  intro x nn s
  obtain ⟨hreg, -⟩ := registerFileReadAfterWrite s.consumeRand x (s.randByte &&& nn)
  refine ⟨_, rfl, hreg, fun b hb => ?_, rfl, rfl⟩
  rw [State.reg_advance, hreg, BitVec.getLsbD_and, hb, Bool.and_false]

/-- Settles O43: each moves one byte and advances (R171 to R173). -/
theorem timerInstructionsMoveOneByte : Obligations.TimerInstructionsMoveOneByte := by
  intro x s
  obtain ⟨hreg, -⟩ := registerFileReadAfterWrite s x s.delay
  exact ⟨⟨_, rfl, hreg, rfl, rfl, rfl⟩, rfl, rfl⟩

/-- Settles O44: the seven are the deferred operations (R180 to R187). -/
theorem deferredInstructionsAlwaysFault : Obligations.DeferredInstructionsAlwaysFault :=
  fun _ _ _ _ => ⟨exec_of_isDeferred rfl, exec_of_isDeferred rfl, exec_of_isDeferred rfl, exec_of_isDeferred rfl,
    exec_of_isDeferred rfl, exec_of_isDeferred rfl, exec_of_isDeferred rfl⟩

end Sys2Proof.Machine
end

section

/-! # Memory and reset (spec sections 20 and 70) -/

namespace Sys2Proof.Machine

/-- Settles O51: the law of memory holds of every list of cells (R56, R57). -/
theorem memoryReadAfterWrite : Obligations.MemoryReadAfterWrite := Memory.read_write

namespace Memory

section
variable {lo a k : Nat} {b : Byte} {m : Memory}

theorem stored_cons_self (a : Nat) (b : Byte) (m : Memory) : stored ((a, b) :: m) a = some b := if_pos rfl

/-- What lies behind the first cell of a rising memory. -/
theorem risesFrom_tail (hm : risesFrom lo ((a, b) :: m) = true) : risesFrom (a + 1) m = true :=
  (Bool.and_eq_true_iff.mp hm).2

/-- A rising memory lists nothing below its first cell. -/
theorem stored_cons_of_lt (hm : risesFrom lo ((a, b) :: m) = true) (hk : k < a) : stored ((a, b) :: m) k = none := by
  rw [stored, if_neg (Nat.ne_of_gt hk)]
  exact stored_eq_none_of_lt m (a + 1) k (Nat.lt_succ_of_lt hk) (risesFrom_tail hm)

/-- What the cells behind the first one list. -/
theorem stored_tail (hm : risesFrom lo ((a, b) :: m) = true) :
    stored m k = if k = a then none else stored ((a, b) :: m) k := by
  split
  case isTrue hk => exact stored_eq_none_of_lt m (a + 1) k (hk ▸ Nat.lt_succ_self a) (risesFrom_tail hm)
  case isFalse hk => rw [stored, if_neg (Ne.symm hk)]

/-- A rising memory begins no later than any address it lists. -/
theorem le_of_stored_eq_some {v : Byte} (hm : risesFrom lo ((a, b) :: m) = true)
    (hk : stored ((a, b) :: m) k = some v) : a ≤ k := by
  refine Nat.le_of_not_lt fun hlt => ?_
  rw [stored_cons_of_lt hm hlt] at hk
  contradiction

/-- Rising memories that list alike have the same first cell, the least that is listed, and lists alike behind it. -/
theorem eq_of_stored_eq {m' : Memory} (hm : risesFrom lo m = true) (hm' : risesFrom lo m' = true)
    (hstored : ∀ k, stored m k = stored m' k) : m = m' := by
  induction m generalizing lo m' with
  | nil =>
    cases m' with
    | nil => rfl
    | cons c' m' => cases (hstored c'.1).trans (stored_cons_self c'.1 c'.2 m')
  | cons c m ih =>
    obtain ⟨a, b⟩ := c
    have hhead := stored_cons_self a b m
    cases m' with
    | nil => cases hhead.symm.trans (hstored a)
    | cons c' m' =>
      obtain ⟨a', b'⟩ := c'
      have hhead' := stored_cons_self a' b' m'
      obtain rfl : a = a' := Nat.le_antisymm (le_of_stored_eq_some hm ((hstored a').trans hhead'))
        (le_of_stored_eq_some hm' ((hstored a).symm.trans hhead))
      obtain rfl : b = b' := Option.some.inj (hhead.symm.trans ((hstored a).trans hhead'))
      have htail : m = m' := ih (risesFrom_tail hm) (risesFrom_tail hm') fun k => by
        rw [stored_tail hm, stored_tail hm', hstored]
      rw [htail]

end

end Memory

/-- Settles O52: canonical memories rise from address 0. -/
theorem canonicalMemoriesThatListAlikeAreEqual : Obligations.CanonicalMemoriesThatListAlikeAreEqual :=
  fun _ _ => Memory.eq_of_stored_eq

/-- The host's image is what memory reads after the load (R222). -/
theorem readMem_loadImage (s : State) (image : Vector Byte 4096) (a : Nat) (ha : a < 4096) :
    (s.loadImage image).readMem a = image[a] := by
  have hstored := stored_cellsFrom 0 a image.toList (by simpa using ha)
  rw [Nat.zero_add] at hstored
  rw [State.readMem, State.loadImage, Memory.read, hstored]
  simp

/-- Settles O58: the launch state is the reset state with the image loaded (R40 to R45, R224). -/
theorem launchStateHasResetValuesAndImage : Obligations.LaunchStateHasResetValuesAndImage :=
  fun image => ⟨State.reg_reset, rfl, rfl, rfl, rfl, rfl, readMem_loadImage State.reset image⟩

end Sys2Proof.Machine
end
